-- ==== Sys2Proof/Word.lean ====
section
/-! DEFINITION. The byte, the unit of the host port and of the frames (R172, R185). -/

namespace Sys2Proof

/-- A byte of the host port or of a frame. -/
abbrev Byte := BitVec 8

end Sys2Proof
end

