-- ==== Sys2Proof/Config.lean ====
section
/-! DEFINITION. The principal numbers of the part (00_scope.md, Principal numbers), fixed for every EL160.
The spec leaves no value of a row open, so no free value stands here. -/

namespace Sys2Proof

/-- The number of a record, 0 to 159 (R1). -/
abbrev Handle := Fin 160

/-- The number of a seat, 0 to 188 (R43). -/
abbrev SeatNo := Fin 189

/-- The number of a content cell, 0 to 511 (R18). -/
abbrev CellNo := Fin 512

/-- A field id. The spec uses 1 to 15 (R16); 0 names no field. -/
abbrev FieldId := Fin 16

/-- A protection level, 0 to 3 (R127). -/
abbrev Level := Fin 4

/-- A period exponent, 0 to 6 (R6). -/
abbrev Exponent := Fin 7

namespace Config

/-- The part code, 0160h (R182). -/
def partCode : Nat := 0x0160

/-- The revision (R182). -/
def revision : Nat := 1

/-- The settle countdown, in ticks (R35, R36). -/
def settleTicks : Nat := 2048

/-- The countdown of a seat released to COOLING, in superframe starts (R45). -/
def coolingSuperframes : Nat := 128

/-- The limit of offer attempts and of release attempts (R92, R152). -/
def maxAttempts : Nat := 4

/-- The entries the join queue can hold (R103). -/
def joinQueueSize : Nat := 8

/-- The field entries a record can hold (R15). -/
def maxFields : Nat := 6

/-- The operations an edit can stage (R157). -/
def maxStaged : Nat := 8

/-- The mode hold that a change into or out of DORMANT sets (R124). -/
def modeHoldTurns : Nat := 2

/-- The limit of the press accumulator (R26). -/
def maxPresses : Nat := 255

/-- The limit of the heard count of a join queue entry (R103). -/
def maxHeard : Nat := 255

/-- The limit of the 16-bit saturating counts (R60, R65, R145). -/
def maxCount : Nat := 65535

/-- The limit of the corrected-error count of one frame (R59). -/
def maxCorrected : Nat := 63

/-- The largest payload a frame may name (R186). -/
def maxPayload : Nat := 48

/-- The handles one LIST STATE returns at most (R169). -/
def listLimit : Nat := 16

end Config

end Sys2Proof
end

