-- ==== Sys2Proof/Syntax.lean ====
section
/-! DEFINITION. The rows of spec/opcode_table.json: the host's commands and the events that the block takes,
one constructor each, with what comes with the row from outside. -/

namespace Sys2Proof

/-- What the Link Codec holds after it has decoded a received uplink frame (R59, R186): nothing, when the header
cannot be decoded, or the four header bytes, the payload and check decoded at the level the header names, and the
number of errors corrected. The error-correcting code itself is outside the manual (R59). -/
inductive Uplink where
  | undecodable
  | decoded (address kindTag level length : Byte) (payload : List Byte) (check : BitVec 16) (corrected : Nat)
  deriving DecidableEq, Repr

/-- One row of the table. A host command carries the parameter bytes clocked in after its command code (R172), so
that their number is part of what it does (R173). An event carries what its source hands in with it. -/
inductive Instr where
  -- transactions (R172, R173, R175)
  | chipSelectFall
  | emptyTransaction
  | unknownCommand (code : Byte) (params : List Byte)
  -- the command port
  | noOperation (params : List Byte)
  | readResponse (params : List Byte)
  | readStatus (params : List Byte)
  | readIdent (params : List Byte)
  | resetCommand (params : List Byte)
  | readEvents (params : List Byte)
  | clearEvents (params : List Byte)
  | setEventMask (params : List Byte)
  -- the link engine
  | setLinkTiming (params : List Byte)
  | startLink (params : List Byte)
  | stopLink (params : List Byte)
  | readTime (params : List Byte)
  -- link quality
  | setQualityLimits (params : List Byte)
  | setLevel (params : List Byte)
  | startCensus (params : List Byte)
  | readCensus (params : List Byte)
  -- admission and retirement
  | readJoin (params : List Byte)
  | dropJoin (params : List Byte)
  | admitLabel (params : List Byte)
  | retire (params : List Byte)
  | forget (params : List Byte)
  -- record commands
  | findSerial (params : List Byte)
  | readRecord (params : List Byte)
  | readField (params : List Byte)
  | readChanged (params : List Byte)
  | listState (params : List Byte)
  | takePresses (params : List Byte)
  -- edits
  | beginEdit (params : List Byte)
  | stageField (params : List Byte)
  | stageRemove (params : List Byte)
  | stageMode (params : List Byte)
  | stagePeriod (params : List Byte)
  | stageSeat (params : List Byte)
  | commitEdit (params : List Byte)
  | abortEdit (params : List Byte)
  -- resets (R183)
  | powerOn
  | resetLineAssert
  | resetLineRelease
  -- events of the Time Base; `ready` is the level of READY at the offer turn start (R67) or the turn start (R59)
  | settleExpiry (ready : Bool)
  | superframeStart (ready : Bool)
  | coolingExpiry (seat : SeatNo)
  | offerTurnTimeout
  | joinWindowStart
  | joinWindowEnd
  | turnStart (seat : SeatNo) (ready : Bool)
  -- events of a turn
  | downlinkSent
  | plannedOpen
  | plannedClose
  | uplinkFrame (frame : Uplink)
  | censusCompletion
  deriving DecidableEq, Repr

end Sys2Proof
end

