-- ==== Sys2Proof/Decode.lean ====
section
/-! DEFINITION. The command codes of the host port (11.3): from the bytes of one SPI transaction to its row and back.
The rows of spec/opcode_table.json have no bits of their own, so `decodeTableWord` reads none. -/

namespace Sys2Proof

/-- The codes of the command table (11.3, R173). -/
def commandCodes : List Byte :=
  [0x00, 0x01, 0x02, 0x03, 0x04, 0x05, 0x06, 0x07, 0x10, 0x11, 0x12, 0x13, 0x18, 0x19, 0x1A, 0x1B] ++
  [0x20, 0x21, 0x22, 0x28, 0x29, 0x30, 0x31, 0x32, 0x33, 0x34, 0x35] ++
  [0x40, 0x41, 0x42, 0x43, 0x44, 0x45, 0x46, 0x47]

/-- The command that a command code and its parameter bytes make (11.3; a code not in the table, R173). -/
def decodeCommand (code : Byte) (params : List Byte) : Instr :=
  match code.toNat with
  | 0x00 => .noOperation params
  | 0x01 => .readResponse params
  | 0x02 => .readStatus params
  | 0x03 => .readIdent params
  | 0x04 => .resetCommand params
  | 0x05 => .readEvents params
  | 0x06 => .clearEvents params
  | 0x07 => .setEventMask params
  | 0x10 => .setLinkTiming params
  | 0x11 => .startLink params
  | 0x12 => .stopLink params
  | 0x13 => .readTime params
  | 0x18 => .setQualityLimits params
  | 0x19 => .setLevel params
  | 0x1A => .startCensus params
  | 0x1B => .readCensus params
  | 0x20 => .readJoin params
  | 0x21 => .dropJoin params
  | 0x22 => .admitLabel params
  | 0x28 => .retire params
  | 0x29 => .forget params
  | 0x30 => .findSerial params
  | 0x31 => .readRecord params
  | 0x32 => .readField params
  | 0x33 => .readChanged params
  | 0x34 => .listState params
  | 0x35 => .takePresses params
  | 0x40 => .beginEdit params
  | 0x41 => .stageField params
  | 0x42 => .stageRemove params
  | 0x43 => .stageMode params
  | 0x44 => .stagePeriod params
  | 0x45 => .stageSeat params
  | 0x46 => .commitEdit params
  | 0x47 => .abortEdit params
  | _ => .unknownCommand code params

/-- The row that the whole bytes clocked in between a fall and a rise of chip select make (R172). -/
def decodeTransaction (bytes : List Byte) : Instr :=
  match bytes with
  | [] => .emptyTransaction
  | code :: params => decodeCommand code params

/-- The whole bytes of the transaction that ends in a row, for the rows that are the end of one. -/
def encodeTransaction (i : Instr) : Option (List Byte) :=
  match i with
  | .emptyTransaction => some []
  | .unknownCommand code params => some (code :: params)
  | .noOperation params => some (0x00 :: params)
  | .readResponse params => some (0x01 :: params)
  | .readStatus params => some (0x02 :: params)
  | .readIdent params => some (0x03 :: params)
  | .resetCommand params => some (0x04 :: params)
  | .readEvents params => some (0x05 :: params)
  | .clearEvents params => some (0x06 :: params)
  | .setEventMask params => some (0x07 :: params)
  | .setLinkTiming params => some (0x10 :: params)
  | .startLink params => some (0x11 :: params)
  | .stopLink params => some (0x12 :: params)
  | .readTime params => some (0x13 :: params)
  | .setQualityLimits params => some (0x18 :: params)
  | .setLevel params => some (0x19 :: params)
  | .startCensus params => some (0x1A :: params)
  | .readCensus params => some (0x1B :: params)
  | .readJoin params => some (0x20 :: params)
  | .dropJoin params => some (0x21 :: params)
  | .admitLabel params => some (0x22 :: params)
  | .retire params => some (0x28 :: params)
  | .forget params => some (0x29 :: params)
  | .findSerial params => some (0x30 :: params)
  | .readRecord params => some (0x31 :: params)
  | .readField params => some (0x32 :: params)
  | .readChanged params => some (0x33 :: params)
  | .listState params => some (0x34 :: params)
  | .takePresses params => some (0x35 :: params)
  | .beginEdit params => some (0x40 :: params)
  | .stageField params => some (0x41 :: params)
  | .stageRemove params => some (0x42 :: params)
  | .stageMode params => some (0x43 :: params)
  | .stagePeriod params => some (0x44 :: params)
  | .stageSeat params => some (0x45 :: params)
  | .commitEdit params => some (0x46 :: params)
  | .abortEdit params => some (0x47 :: params)
  | .chipSelectFall | .powerOn | .resetLineAssert | .resetLineRelease | .settleExpiry _ | .superframeStart _
  | .coolingExpiry _ | .offerTurnTimeout | .joinWindowStart | .joinWindowEnd | .turnStart _ _ | .downlinkSent
  | .plannedOpen | .plannedClose | .uplinkFrame _ | .censusCompletion => none

/-- The row that a word spells by the bits of spec/opcode_table.json: the table gives no row any bits. -/
def decodeTableWord (_nbits _w : Nat) : Option Instr := none

end Sys2Proof
end

