-- ==== Sys2Proof/Machine/State.lean ====
section
/-! DEFINITION. The state of the EL160, block by block (00_scope.md, Block overview), as plain data, and State.reset,
the part after power-on. -/

namespace Sys2Proof.Machine

/-! ## Names -/

/-- The state of a record (R14). -/
inductive RecordState where
  | free | offered | bound | missing | lost | releasing
  deriving DecidableEq, Repr

/-- How the last occupant of a record left it (R4). -/
inductive ReleaseOutcome where
  | none | acknowledged | unanswered | forgotten
  deriving DecidableEq, Repr

/-- A label mode (R121); `showing` is the spec's SHOW. -/
inductive Mode where
  | showing | blank | dormant
  deriving DecidableEq, Repr

/-- A level policy (R128). -/
inductive LevelPolicy where
  | automatic | manual
  deriving DecidableEq, Repr

/-- A placement of the reply window in its turn (R32). -/
inductive WindowOffset where
  | centered | late | early | wide
  deriving DecidableEq, Repr

/-- The derived status of a field entry (R17). -/
inductive FieldStatus where
  | pending | inSync | refused | removing
  deriving DecidableEq, Repr

/-- A seat of the Seat Map (R43). A COOLING seat carries its countdown. -/
inductive Seat where
  | free
  | held (handle : Handle)
  | cooling (countdown : Nat)
  deriving DecidableEq, Repr

/-- The state of the link engine (R34). -/
inductive LinkState where
  | stopped | starting | running | stopping
  deriving DecidableEq, Repr

/-- The kind of reset the part last passed through (R183). -/
inductive ResetCause where
  | power | line | command
  deriving DecidableEq, Repr

/-- The state of the census (R144). -/
inductive CensusState where
  | idle | counting
  deriving DecidableEq, Repr

/-- A result code (R176). -/
inductive ResultCode where
  | ok | unknown | length | value | state | noRecord | tableFull | duplicate
  | noSeat | seatTaken | noCells | editOpen | noEdit | notFound | empty | tooMany
  deriving DecidableEq, Repr

/-- An event flag (R178). -/
inductive EventFlag where
  | joinHeard | joinDropped | changed | lost | released | refused | censusDone | linkState | turnSkipped
  deriving DecidableEq, Repr

/-! ## The Label Table -/

/-- A field entry of a record (R16). Its value stands in its cell (R18); its status is derived (R17). -/
structure FieldEntry where
  id        : FieldId
  cell      : CellNo
  desired   : BitVec 8
  confirmed : Option (BitVec 8)
  refused   : Option (BitVec 8)
  sent      : Bool
  removing  : Bool
  deriving DecidableEq, Repr

/-- When a label was last heard: superframe number and slot (R10). -/
structure Heard where
  superframe : BitVec 16
  slot       : Fin 64
  deriving DecidableEq, Repr

/-- A record of the Label Table (1.1, R2 to R10). Its handle is its place in the table. -/
structure Record where
  state         : RecordState
  generation    : BitVec 8
  serial        : BitVec 32
  outcome       : ReleaseOutcome
  seat          : Option SeatNo
  target        : Option SeatNo
  period        : Exponent
  pendingPeriod : Option Exponent
  modeDesired   : Mode
  modeConfirmed : Mode
  modeHold      : Nat
  level         : Level
  floor         : Level
  policy        : LevelPolicy
  offset        : WindowOffset
  huntCandidate : WindowOffset
  huntMisses    : Nat
  missCount     : Nat
  windowTurns   : Nat
  windowBad     : Nat
  cleanWindows  : Nat
  attempts      : Nat
  lastHeard     : Option Heard
  supply        : Option (BitVec 4)
  lowSupply     : Bool
  pressBaseline : Option (BitVec 4)
  presses       : Nat
  nextTag       : BitVec 4
  fields        : List FieldEntry
  deriving DecidableEq, Repr

/-- A record after power-on or the reset line (R12, R13). -/
def Record.vacant : Record where
  state := .free
  generation := 0
  serial := 0
  outcome := .none
  seat := none
  target := none
  period := 0
  pendingPeriod := none
  modeDesired := .showing
  modeConfirmed := .showing
  modeHold := 0
  level := 0
  floor := 0
  policy := .automatic
  offset := .centered
  huntCandidate := .centered
  huntMisses := 0
  missCount := 0
  windowTurns := 0
  windowBad := 0
  cleanWindows := 0
  attempts := 0
  lastHeard := none
  supply := none
  lowSupply := false
  pressBaseline := none
  presses := 0
  nextTag := 0
  fields := []

/-! ## The Time Base -/

/-- A link timing: turn length T, reply window W and admission-open flag (2.4). -/
structure LinkTiming where
  turnLength    : Nat
  replyWindow   : Nat
  admissionOpen : Bool
  deriving DecidableEq, Repr

/-- The Time Base (R28, R33, R34, R36, R41). `settle` is the number of ticks the settle countdown has counted, while
it runs; `slot`, `position` and `tick` are the position of the schedule. -/
structure TimeBase where
  link           : LinkState
  superframe     : BitVec 16
  slot           : Fin 64
  position       : Fin 3
  tick           : Nat
  settle         : Option Nat
  timing         : LinkTiming
  pendingTiming  : Option LinkTiming
  receiverEnable : Bool
  deriving DecidableEq, Repr

/-! ## The Turn Scheduler -/

/-- The kind of a turn of a label slot (R51). -/
inductive TurnKind where
  | label | probe
  deriving DecidableEq, Repr

/-- The phase of a turn (R52). -/
inductive Phase where
  | sending | waiting | listening
  deriving DecidableEq, Repr

/-- An item of an UPDATE frame as the turn context copies it (R51, R81): field id, version, and set or remove. -/
inductive Item where
  | set (id : FieldId) (version : BitVec 8)
  | remove (id : FieldId)
  deriving DecidableEq, Repr

/-- The frame kind of a LABEL or PROBE turn, with the items or the directive value sent (R51, R56). -/
inductive Work where
  | poll
  | update (items : List Item)
  | mode (value : Mode)
  | retime (value : Exponent)
  | move (value : SeatNo)
  | release
  deriving DecidableEq, Repr

/-- The turn context of a LABEL or PROBE turn (R51). Its link address is the handle plus one. -/
structure LabelTurn where
  kind         : TurnKind
  phase        : Phase
  seat         : SeatNo
  handle       : Handle
  generation   : BitVec 8
  superframe   : BitVec 16
  slot         : Fin 64
  work         : Work
  tag          : BitVec 4
  level        : Level
  offset       : WindowOffset
  plannedOpen  : Nat
  plannedClose : Nat
  deriving DecidableEq, Repr

/-- The turn context of an offer turn (R51, R67): phase SENDING, frame kind OFFER, slot 0. -/
structure OfferTurn where
  handle     : Handle
  generation : BitVec 8
  superframe : BitVec 16
  deriving DecidableEq, Repr

/-- The turn context (R51): a LABEL or PROBE turn, an offer turn, or the join window of a superframe. -/
inductive TurnContext where
  | label (turn : LabelTurn)
  | offer (turn : OfferTurn)
  | joinWindow (superframe : BitVec 16)
  deriving DecidableEq, Repr

/-- The late reference: link address and tag of the turn that closed NONE (R65). -/
structure LateReference where
  address : Byte
  tag     : BitVec 4
  deriving DecidableEq, Repr

/-! ## The Quality Monitor -/

/-- The quality limits (R142). -/
structure QualityLimits where
  missLimit       : Nat
  huntLength      : Nat
  windowLength    : Nat
  raiseThreshold  : Nat
  errorThreshold  : Nat
  cleanToLower    : Nat
  supplyThreshold : Nat
  deriving DecidableEq, Repr

/-- The defaults of the quality limits (R142). -/
def QualityLimits.default : QualityLimits where
  missLimit := 4
  huntLength := 2
  windowLength := 16
  raiseThreshold := 3
  errorThreshold := 8
  cleanToLower := 4
  supplyThreshold := 3

/-- The four quantities of a census (R144); `noReply` is the spec's NONE. -/
structure CensusCounts where
  good     : Nat
  damaged  : Nat
  noReply  : Nat
  errorSum : Nat
  deriving DecidableEq, Repr

/-- Counts of zero. -/
def CensusCounts.zero : CensusCounts where
  good := 0
  damaged := 0
  noReply := 0
  errorSum := 0

/-- The census (R144). -/
structure Census where
  state     : CensusState
  remaining : Nat
  running   : CensusCounts
  latched   : CensusCounts
  deriving DecidableEq, Repr

/-- The census after every reset (R146). -/
def Census.idle : Census where
  state := .idle
  remaining := 0
  running := .zero
  latched := .zero

/-! ## The Admission Unit -/

/-- An entry of the join queue (R103). -/
structure JoinEntry where
  serial    : BitVec 32
  supply    : BitVec 4
  heard     : Nat
  lastHeard : BitVec 16
  corrected : Nat
  deriving DecidableEq, Repr

/-! ## The Edit Stage -/

/-- A seat that a claim names, or any seat (R44). -/
inductive SeatRequest where
  | named (seat : SeatNo)
  | any
  deriving DecidableEq, Repr

/-- A staged operation (R161). -/
inductive StagedOp where
  | set (id : FieldId) (value : List Byte)
  | remove (id : FieldId)
  | mode (value : Mode)
  | period (value : Exponent)
  | seat (request : SeatRequest)
  deriving DecidableEq, Repr

/-- An open edit context (R157). -/
structure EditContext where
  handle : Handle
  ops    : List StagedOp
  deriving DecidableEq, Repr

/-! ## The Command Port -/

/-- The chip select input (R172): high; low, with the port status byte captured at its fall (R175); or low, its
transaction abandoned by a reset. -/
inductive ChipSelect where
  | high
  | low (status : Byte)
  | abandoned
  deriving DecidableEq, Repr

/-- The Command Port (R172 to R183). `attention` is true while the output is asserted. `dataOut` holds the bytes
clocked out in the last transaction that was taken; whether the data output is driven is State.dataOutDriven. -/
structure Port where
  flags      : BitVec 9
  mask       : BitVec 9
  attention  : Bool
  lastResult : ResultCode
  response   : List Byte
  skipped    : Nat
  late       : Nat
  resetCause : ResetCause
  select     : ChipSelect
  dataOut    : List Byte
  deriving DecidableEq, Repr

/-! ## The part -/

/-- Why a step stops. No rule of the spec stops the part, and no meaning of this model does: the type is empty. -/
inductive Fault where
  deriving DecidableEq, Repr

/-- Why a row has no meaning. Raised by an arm of `exec` that is still rejected by name, and by nothing else; safe. No
arm is rejected. -/
inductive Refusal where
  | notModelled (mnemonic : String)
  deriving DecidableEq, Repr

/-- The state of the EL160. `inReset` is the reset input held low and `poweredUp` whether a power-on reset has completed
(R183); `ready` is the READY input as last sampled (R59); `frameOut` is the frame last handed to the front end (R57,
R67). `pending` is the queue of rows that wait, first in first out. -/
structure State where
  records     : Vector Record 160
  changed     : Vector Bool 160
  cells       : Vector (Option (List Byte)) 512
  seats       : Vector Seat 189
  time        : TimeBase
  context     : Option TurnContext
  lateRef     : Option LateReference
  frameOut    : List Byte
  ready       : Bool
  limits      : QualityLimits
  census      : Census
  joinQueue   : List JoinEntry
  offerQueue  : List Handle
  edit        : Option EditContext
  port        : Port
  inReset     : Bool
  poweredUp   : Bool
  pending     : List Instr
  deriving DecidableEq, Repr

/-- The part right after power-on (R13, R21, R24, R39, R47, R71, R91, R103, R143, R146, R157, R183). The inputs READY,
chip select and reset, and the two output records, are the model's choice (log 4, 5, 6, 8, 14). -/
def State.reset : State where
  records := Vector.replicate 160 Record.vacant
  changed := Vector.replicate 160 false
  cells := Vector.replicate 512 none
  seats := Vector.replicate 189 Seat.free
  time :=
    { link := .stopped, superframe := 0, slot := 0, position := 0, tick := 0, settle := none,
      timing := { turnLength := 128, replyWindow := 24, admissionOpen := true }, pendingTiming := none,
      receiverEnable := false }
  context := none
  lateRef := none
  frameOut := []
  ready := false
  limits := .default
  census := .idle
  joinQueue := []
  offerQueue := []
  edit := none
  port :=
    { flags := 0, mask := 0, attention := false, lastResult := .ok, response := [], skipped := 0, late := 0,
      resetCause := .power, select := .high, dataOut := [] }
  inReset := false
  poweredUp := true
  pending := []

end Sys2Proof.Machine
end

