-- ==== Sys2Proof/Machine/Flags.lean ====
section
/-! DEFINITION. The event flags, the mask and attention (R178 to R180), the result codes (R176), the port status byte
(R175), and the two turn counts (R60, R65). -/

namespace Sys2Proof.Machine

/-- The number of an event flag in the flag word (R178). -/
def EventFlag.bit : EventFlag → Nat
  | .joinHeard => 0
  | .joinDropped => 1
  | .changed => 2
  | .lost => 3
  | .released => 4
  | .refused => 5
  | .censusDone => 6
  | .linkState => 7
  | .turnSkipped => 8

/-- The flag word with one event flag set. -/
def EventFlag.word (f : EventFlag) : BitVec 9 := BitVec.ofNat 9 (2 ^ f.bit)

/-- The number of a result code (R176). -/
def ResultCode.code : ResultCode → Nat
  | .ok => 0
  | .unknown => 1
  | .length => 2
  | .value => 3
  | .state => 4
  | .noRecord => 5
  | .tableFull => 6
  | .duplicate => 7
  | .noSeat => 8
  | .seatTaken => 9
  | .noCells => 10
  | .editOpen => 11
  | .noEdit => 12
  | .notFound => 13
  | .empty => 14
  | .tooMany => 15

/-- The code of a link engine state (R175). -/
def LinkState.code : LinkState → Nat
  | .stopped => 0
  | .starting => 1
  | .running => 2
  | .stopping => 3

/-- Give the port these flags and this mask; attention follows in the same step (R180). -/
def State.withEvents (s : State) (flags mask : BitVec 9) : State :=
  { s with port := { s.port with flags := flags, mask := mask, attention := flags &&& mask != 0 } }

/-- A cause sets its event flag (R178). -/
def State.setFlag (s : State) (f : EventFlag) : State :=
  s.withEvents (s.port.flags ||| f.word) s.port.mask

/-- Whether an event flag is set. -/
def State.flag (s : State) (f : EventFlag) : Bool := s.port.flags &&& f.word != 0

/-- The port status byte as it stands (R175; bits as in 11.3). -/
def State.statusByte (s : State) : Byte :=
  BitVec.ofNat 8
    (s.port.lastResult.code + 16 * s.time.link.code + 64 * s.edit.isSome.toNat + 128 * s.port.attention.toNat)

/-- A SKIPPED turn: the skipped-turn count, saturating, and TURN_SKIPPED (R60, R67). -/
def State.skipTurn (s : State) : State :=
  { s with port := { s.port with skipped := min (s.port.skipped + 1) Config.maxCount } }.setFlag .turnSkipped

/-- A late reply: the late-reply count, saturating (R65). -/
def State.countLate (s : State) : State :=
  { s with port := { s.port with late := min (s.port.late + 1) Config.maxCount } }

end Sys2Proof.Machine
end

