-- ==== Sys2Proof/Machine/Operands.lean ====
section
/-! DEFINITION. How parameter bytes are read and response bytes are written: byte order, ranges and the table of codes
(R161, R187, 11.3). -/

namespace Sys2Proof.Machine

/-! ## Reading parameters -/

/-- A 16-bit parameter, most significant byte first (R187). -/
def word16 (hi lo : Byte) : Nat := 256 * hi.toNat + lo.toNat

/-- A 32-bit parameter, most significant byte first (R187). -/
def word32 (a b c d : Byte) : BitVec 32 :=
  BitVec.ofNat 32 (((256 * a.toNat + b.toNat) * 256 + c.toNat) * 256 + d.toNat)

/-- A number below `n`, if the byte is one. -/
def below? (n : Nat) (b : Byte) : Option (Fin n) :=
  if h : b.toNat < n then some ⟨b.toNat, h⟩ else none

/-- A handle, 0 to 159. -/
def handle? (b : Byte) : Option Handle := below? 160 b

/-- A period exponent, 0 to 6. -/
def exponent? (b : Byte) : Option Exponent := below? 7 b

/-- A protection level, 0 to 3. -/
def level? (b : Byte) : Option Level := below? 4 b

/-- A field id, 1 to 15 (R161). -/
def fieldId? (b : Byte) : Option FieldId :=
  if b = 0 then none else below? 16 b

/-- A seat request: FFh for any seat, or a seat from 0 to 188 (R44, R187). -/
def seatRequest? (b : Byte) : Option SeatRequest :=
  if b = 0xFF then some .any else (below? 189 b).map .named

/-- A mode by its code (11.3). -/
def mode? (b : Byte) : Option Mode :=
  if b = 0 then some .showing else if b = 1 then some .blank else if b = 2 then some .dormant else none

/-- A level policy by its code (11.3). -/
def policy? (b : Byte) : Option LevelPolicy :=
  if b = 0 then some .automatic else if b = 1 then some .manual else none

/-- A record state by its code (11.3). -/
def recordState? (b : Byte) : Option RecordState :=
  if b = 0 then some .free else if b = 1 then some .offered else if b = 2 then some .bound
  else if b = 3 then some .missing else if b = 4 then some .lost else if b = 5 then some .releasing else none

/-- An admission-open flag, 0 or 1 (R40). -/
def flag? (b : Byte) : Option Bool :=
  if b = 0 then some false else if b = 1 then some true else none

/-- Whether a serial is valid (R3). -/
def validSerial (serial : BitVec 32) : Bool := serial != 0 && serial != 0xFFFFFFFF

/-! ## Writing responses -/

/-- One byte of a response. -/
def byteOf (n : Nat) : Byte := BitVec.ofNat 8 n

/-- Two bytes, most significant first (R187). -/
def be16 (n : Nat) : List Byte := [byteOf (n / 256), byteOf n]

/-- Four bytes, most significant first (R187). -/
def be32 (v : BitVec 32) : List Byte :=
  [byteOf (v.toNat / 16777216), byteOf (v.toNat / 65536), byteOf (v.toNat / 256), byteOf v.toNat]

/-- The code of a record state. -/
def RecordState.code : RecordState → Nat
  | .free => 0
  | .offered => 1
  | .bound => 2
  | .missing => 3
  | .lost => 4
  | .releasing => 5

/-- The code of a mode. -/
def Mode.code : Mode → Nat
  | .showing => 0
  | .blank => 1
  | .dormant => 2

/-- The code of a window offset. -/
def WindowOffset.code : WindowOffset → Nat
  | .centered => 0
  | .late => 1
  | .early => 2
  | .wide => 3

/-- The code of a level policy. -/
def LevelPolicy.code : LevelPolicy → Nat
  | .automatic => 0
  | .manual => 1

/-- The code of a release outcome. -/
def ReleaseOutcome.code : ReleaseOutcome → Nat
  | .none => 0
  | .acknowledged => 1
  | .unanswered => 2
  | .forgotten => 3

/-- The code of a field status. -/
def FieldStatus.code : FieldStatus → Nat
  | .pending => 0
  | .inSync => 1
  | .refused => 2
  | .removing => 3

/-- The code of a census state. -/
def CensusState.code : CensusState → Nat
  | .idle => 0
  | .counting => 1

/-- The code of a reset cause. -/
def ResetCause.code : ResetCause → Nat
  | .power => 0
  | .line => 1
  | .command => 2

end Sys2Proof.Machine
end

