-- ==== Sys2Proof/Machine/Ops.lean ====
section
/-! DEFINITION. The named operations over the state that the meanings share: records, the changed set, cells, seats,
vacating a record, and taking a command at the port. -/

namespace Sys2Proof.Machine

/-- What a row answers. -/
abbrev Answer := Host.Outcome State Fault Refusal

/-! ## Records and the changed set -/

/-- The record at a handle. -/
def State.record (s : State) (h : Handle) : Record := s.records[h.val]

/-- Put a record at a handle. -/
def State.setRecord (s : State) (h : Handle) (r : Record) : State :=
  { s with records := s.records.set h.val r }

/-- Change the record at a handle. -/
def State.modifyRecord (s : State) (h : Handle) (f : Record → Record) : State :=
  s.setRecord h (f (s.record h))

/-- Whether a claim that carries this handle and generation reaches its record (R2). -/
def State.claimLive (s : State) (h : Handle) (generation : BitVec 8) : Bool :=
  decide ((s.record h).state ≠ .free) && (s.record h).generation == generation

/-- Whether a handle is in the changed set. -/
def State.isChanged (s : State) (h : Handle) : Bool := s.changed[h.val]

/-- Insert a handle into the changed set; every insertion sets CHANGED (R22). -/
def State.markChanged (s : State) (h : Handle) : State :=
  { s with changed := s.changed.set h.val true }.setFlag .changed

/-- Insert a handle if a claim changed one of the matters of R22. -/
def State.markChangedIf (s : State) (changed : Bool) (h : Handle) : State :=
  if changed then s.markChanged h else s

/-- Remove a handle from the changed set (R23, R24). -/
def State.unmarkChanged (s : State) (h : Handle) : State :=
  { s with changed := s.changed.set h.val false }

/-- The lowest handle in the changed set (R23). -/
def State.lowestChanged (s : State) : Option Handle :=
  (List.finRange 160).find? fun h => s.isChanged h

/-- The handle of the record that is not FREE and carries a serial (R3, R97, R169). -/
def State.findSerial (s : State) (serial : BitVec 32) : Option Handle :=
  (List.finRange 160).find? fun h => decide ((s.record h).state ≠ .free) && (s.record h).serial == serial

/-- The lowest-numbered FREE record (R107). -/
def State.lowestFreeRecord (s : State) : Option Handle :=
  (List.finRange 160).find? fun h => decide ((s.record h).state = .free)

/-- The number of FREE records (R181). -/
def State.freeRecords (s : State) : Nat := s.records.toList.countP fun r => decide (r.state = .free)

/-! ## Cells -/

/-- The value in a cell; a free cell holds nothing (R18). -/
def State.cellValue (s : State) (c : CellNo) : List Byte := s.cells[c.val].getD []

/-- Write a value into a cell, which is in use from then on (R18). -/
def State.writeCell (s : State) (c : CellNo) (value : List Byte) : State :=
  { s with cells := s.cells.set c.val (some value) }

/-- Return a cell to the Cell Pool (R20). -/
def State.freeCell (s : State) (c : CellNo) : State := { s with cells := s.cells.set c.val none }

/-- Return the cells of these entries (R20). -/
def State.freeCellsOf (s : State) (entries : List FieldEntry) : State :=
  entries.foldl (fun s e => s.freeCell e.cell) s

/-- The lowest-numbered free cell (R18). -/
def State.lowestFreeCell (s : State) : Option CellNo :=
  (List.finRange 512).find? fun c => s.cells[c.val].isNone

/-- The number of free cells (R18, R181). -/
def State.freeCellCount (s : State) : Nat := s.cells.toList.countP Option.isNone

/-! ## Seats -/

/-- The state of a seat (R43). -/
def State.seatState (s : State) (n : SeatNo) : Seat := s.seats[n.val]

/-- Give a seat a new state. -/
def State.setSeat (s : State) (n : SeatNo) (v : Seat) : State := { s with seats := s.seats.set n.val v }

/-- Give a seat, where there is one, a new state. -/
def State.setSeat? (s : State) (n : Option SeatNo) (v : Seat) : State :=
  match n with
  | none => s
  | some n => s.setSeat n v

/-- A seat released to COOLING (R45). -/
def Seat.cooled : Seat := .cooling Config.coolingSuperframes

/-- The lowest-numbered FREE seat (R44). -/
def State.lowestFreeSeat (s : State) : Option SeatNo :=
  (List.finRange 189).find? fun n => decide (s.seatState n = .free)

/-- The seat that a claim is given, or the result that refuses the claim (R44). -/
def State.claimSeat (s : State) (request : SeatRequest) : Except ResultCode SeatNo :=
  match request with
  | .any =>
    match s.lowestFreeSeat with
    | none => .error .noSeat
    | some n => .ok n
  | .named n => if s.seatState n = .free then .ok n else .error .seatTaken

/-- The number of FREE seats (R47). -/
def State.freeSeats (s : State) : Nat := s.seats.toList.countP fun v => decide (v = .free)

/-- The number of COOLING seats (R47). -/
def State.coolingSeats (s : State) : Nat :=
  s.seats.toList.countP fun v => match v with | .cooling _ => true | .free => false | .held _ => false

/-- One superframe start at a seat: the countdown of a COOLING seat is decremented (R46). -/
def Seat.decrement (v : Seat) : Seat :=
  match v with
  | .cooling n => .cooling (n - 1)
  | .free => .free
  | .held h => .held h

/-- A COOLING seat whose countdown has reached 0 becomes FREE (R46). -/
def Seat.expire (v : Seat) : Seat :=
  match v with
  | .cooling n => if n = 0 then .free else .cooling n
  | .free => .free
  | .held h => .held h

/-- One superframe start at every seat: the countdowns are decremented and the seats that reach 0 become FREE (R46). -/
def coolSeats (seats : Vector Seat 189) : Vector Seat 189 :=
  ⟨⟨seats.toList.map fun v => v.decrement.expire⟩, by simp⟩

/-! ## Vacating a record -/

/-- The parts of a record after it is vacated: the generation and serial are kept, the release outcome is written
(R12). -/
def Record.vacated (r : Record) (outcome : ReleaseOutcome) : Record :=
  { Record.vacant with generation := r.generation, serial := r.serial, outcome := outcome }

/-- Take a handle out of the offer queue, wherever it stands; the gap closes (R91). -/
def State.leaveOfferQueue (s : State) (h : Handle) : State :=
  { s with offerQueue := s.offerQueue.filter (· ≠ h) }

/-- Vacate a record (R12): its cells return, its seats take the state `left` that the cause gives (R45), it leaves the
offer queue, and its parts are cleared. -/
def State.vacate (s : State) (h : Handle) (outcome : ReleaseOutcome) (left : Seat) : State :=
  let r := s.record h
  ((((s.freeCellsOf r.fields).setSeat? r.seat left).setSeat? r.target left).leaveOfferQueue h).setRecord h
    (r.vacated outcome)

/-! ## The port -/

/-- Set the last result and replace the response buffer (R173). -/
def State.reply (s : State) (result : ResultCode) (response : List Byte) : State :=
  { s with port := { s.port with lastResult := result, response := response } }

/-- A command refused, or answered with nothing: a response of length 0 (R173, R176). -/
def State.refuse (s : State) (result : ResultCode) : State := s.reply result []

/-- A command carried out with nothing to return. -/
def State.accept (s : State) : State := s.reply .ok []

/-- The chip select rises with no command taken. -/
def State.deselect (s : State) : State := { s with port := { s.port with select := .high } }

/-- The end of a transaction whose command is taken: these bytes were clocked out (R172, R174). -/
def State.endTransaction (s : State) (bytes : List Byte) : State :=
  { s with port := { s.port with select := .high, dataOut := bytes } }

/-- The port status byte captured for the transaction that now ends, if its command is taken: none in reset or in a
transaction that a reset abandoned (R172, R183); with no fall recorded, the fall is taken with the rise (log 5). -/
def State.captured (s : State) : Option Byte :=
  if s.inReset then none else
  match s.port.select with
  | .high => some s.statusByte
  | .low status => some status
  | .abandoned => none

/-- Whether the part drives the data output: it is high-impedance while deselected or in reset (R172, 10.6). A
transaction that a reset abandoned stays selected until its rise (log 19). -/
def State.dataOutDriven (s : State) : Bool := !s.inReset && s.port.select != .high

/-- Take a command at the rise of chip select (R172): `out` is what is clocked out after the status byte, `effect` what
the command does. -/
def State.takeCommand (s : State) (out : List Byte) (effect : State → State) : State :=
  match s.captured with
  | none => s.deselect
  | some status => effect (s.endTransaction (status :: out))

/-- A command other than READ RESPONSE: 00h is clocked out under each parameter byte (R172). -/
def State.command (s : State) (params : List Byte) (effect : State → State) : Answer :=
  .next (s.takeCommand (List.replicate params.length 0) effect)

/-- An event inside the part or from the front end: none is taken while the part is held in reset (R183). -/
def State.event (s : State) (effect : State → State) : Answer :=
  .next (if s.inReset then s else effect s)

end Sys2Proof.Machine
end

