-- ==== Sys2Proof/Machine/Fields.lean ====
section
/-! DEFINITION. Field entries: status, the version rule, the effect of a commit on them, packing an UPDATE, and its
acknowledgement (R15 to R20, R72 to R88). -/

namespace Sys2Proof.Machine

/-- The status of a field entry: the first condition that holds (R17). -/
def FieldEntry.status (e : FieldEntry) : FieldStatus :=
  if e.removing then .removing
  else if e.refused = some e.desired then .refused
  else if e.confirmed = some e.desired then .inSync
  else .pending

/-- Put an entry in its place in field-id order (R15). -/
def insertEntry (e : FieldEntry) : List FieldEntry → List FieldEntry
  | [] => [e]
  | x :: xs => if e.id < x.id then e :: x :: xs else x :: insertEntry e xs

/-- The entry of a field id. -/
def Record.entry? (r : Record) (id : FieldId) : Option FieldEntry := r.fields.find? (·.id = id)

/-! ## Packing an UPDATE (R79 to R81) -/

/-- The item an entry gives to a frame: a set item if PENDING, a remove item if REMOVING (R79). -/
def FieldEntry.item? (e : FieldEntry) : Option Item :=
  match e.status with
  | .pending => some (.set e.id e.desired)
  | .removing => some (.remove e.id)
  | .inSync => none
  | .refused => none

/-- The bytes an item costs, given the length of the entry's value (R79). -/
def Item.cost (valueLength : Nat) : Item → Nat
  | .set _ _ => 3 + valueLength
  | .remove _ => 2

/-- The item capacity of an UPDATE frame at a protection level (R80). -/
def itemCapacity (level : Level) : Nat :=
  match level with
  | 0 => 48
  | 1 => 40
  | 2 => 28
  | 3 => 16

/-- Take the entries in order into a frame with `capacity` bytes and room for `room` items left; an entry whose item
does not fit is passed over (R80). -/
def packItems (valueLength : FieldEntry → Nat) : Nat → Nat → List FieldEntry → List Item
  | _, _, [] => []
  | capacity, room, e :: es =>
    match e.item? with
    | none => packItems valueLength capacity room es
    | some item =>
      if item.cost (valueLength e) ≤ capacity ∧ 0 < room then
        item :: packItems valueLength (capacity - item.cost (valueLength e)) (room - 1) es
      else packItems valueLength capacity room es

/-- The items of an UPDATE built for a record now (R80). -/
def State.packUpdate (s : State) (r : Record) : List Item :=
  packItems (fun e => (s.cellValue e.cell).length) (itemCapacity r.level) Config.maxFields r.fields

/-- Whether these items hold a set item for a field id. -/
def setsField (items : List Item) (id : FieldId) : Bool :=
  items.any fun item => match item with | .set i _ => i == id | .remove _ => false

/-- The build of an UPDATE sets the sent flag of each entry carried as a set item (R81). -/
def FieldEntry.markSent (items : List Item) (e : FieldEntry) : FieldEntry :=
  { e with sent := e.sent || setsField items e.id }

/-- The value of a record's field, as its cell holds it. -/
def State.fieldValue (s : State) (r : Record) (id : FieldId) : List Byte :=
  match r.entry? id with
  | none => []
  | some e => s.cellValue e.cell

/-! ## The version rule (R73) -/

/-- The first version after `desired` that is none of `avoid`; at most three are passed over (R73). -/
def nextVersion (desired : BitVec 8) (avoid : List (BitVec 8)) : BitVec 8 :=
  (([desired + 1, desired + 2, desired + 3, desired + 4].find? fun v => !avoid.contains v)).getD (desired + 1)

/-- The version of a set item for a record's field in the turn context (R73). -/
def State.inFlightVersion (s : State) (h : Handle) (id : FieldId) : Option (BitVec 8) :=
  match s.context with
  | some (.label turn) =>
    if turn.handle = h ∧ turn.generation = (s.record h).generation then
      match turn.work with
      | .update items => items.findSome? fun item =>
          match item with | .set i v => if i = id then some v else none | .remove _ => none
      | .poll | .mode _ | .retime _ | .move _ | .release => none
    else none
  | some (.offer _) | some (.joinWindow _) | none => none

/-- The desired version of an entry after a commit steps it (R73). -/
def State.steppedVersion (s : State) (h : Handle) (e : FieldEntry) : BitVec 8 :=
  nextVersion e.desired (e.confirmed.toList ++ e.refused.toList ++ (s.inFlightVersion h e.id).toList)

/-! ## The effect of a commit on the fields (R72 to R76, R163) -/

/-- The last staged operation on a field id: a SET with its value, or a REMOVE. -/
inductive FieldOp where
  | set (value : List Byte)
  | remove
  deriving DecidableEq, Repr

/-- The last staged operation that names a field id (R72). -/
def lastFieldOp (id : FieldId) : List StagedOp → Option FieldOp
  | [] => none
  | .set i value :: ops => (lastFieldOp id ops).or (if i = id then some (.set value) else none)
  | .remove i :: ops => (lastFieldOp id ops).or (if i = id then some .remove else none)
  | .mode _ :: ops => lastFieldOp id ops
  | .period _ :: ops => lastFieldOp id ops
  | .seat _ :: ops => lastFieldOp id ops

/-- What becomes of an entry at a commit (R72): it stays as `entry`, its cell rewritten with `value`, or it is dropped. -/
inductive EntryFate where
  | kept (entry : FieldEntry)
  | written (entry : FieldEntry) (value : List Byte)
  | dropped
  deriving DecidableEq, Repr

/-- The effect of the last operation on the id of an entry that the record holds (R72; R74 to R76). -/
def State.entryFate (s : State) (h : Handle) (ops : List StagedOp) (e : FieldEntry) : EntryFate :=
  match lastFieldOp e.id ops with
  | none => .kept e
  | some (.set value) =>
    if e.removing then .written { e with removing := false, desired := s.steppedVersion h e } value
    else if s.cellValue e.cell = value then .kept e
    else .written { e with desired := s.steppedVersion h e } value
  | some .remove =>
    if e.removing then .kept e
    else if e.sent then .kept { e with removing := true }
    else .dropped

/-- The entry that a fate leaves. -/
def EntryFate.entry? : EntryFate → Option FieldEntry
  | .kept e => some e
  | .written e _ => some e
  | .dropped => none

/-- The cell that a fate rewrites, with its new value. -/
def EntryFate.write? : EntryFate → Option (CellNo × List Byte)
  | .kept _ => none
  | .written e value => some (e.cell, value)
  | .dropped => none

/-- The entries of a record that a commit keeps, changed or not. -/
def State.committedEntries (s : State) (h : Handle) (ops : List StagedOp) : List FieldEntry :=
  (s.record h).fields.filterMap fun e => (s.entryFate h ops e).entry?

/-- The entries of a record that a commit drops. -/
def State.droppedEntries (s : State) (h : Handle) (ops : List StagedOp) : List FieldEntry :=
  (s.record h).fields.filter fun e => decide (s.entryFate h ops e = .dropped)

/-- The cells that a commit rewrites in place (R18). -/
def State.cellWrites (s : State) (h : Handle) (ops : List StagedOp) : List (CellNo × List Byte) :=
  (s.record h).fields.filterMap fun e => (s.entryFate h ops e).write?

/-- The fields that a commit creates, in ascending field id (R72, R19; the order is the model's, log 9). -/
def createdFields (r : Record) (ops : List StagedOp) : List (FieldId × List Byte) :=
  (List.finRange 16).filterMap fun id =>
    match r.entry? id, lastFieldOp id ops with
    | none, some (.set value) => some (id, value)
    | none, some .remove => none
    | none, none => none
    | some _, _ => none

/-- Whether a REMOVE meets an id absent from the working copy at its step (R163): `present` are the ids in the copy, and
a REMOVE leaves an id present only if the record's entry has its sent flag set. -/
def removeFails (r : Record) : List FieldId → List StagedOp → Bool
  | _, [] => false
  | present, .set id _ :: ops => removeFails r (id :: present) ops
  | present, .remove id :: ops =>
    if present.contains id then
      removeFails r (if r.fields.any (fun e => e.id == id && e.sent) then present else present.filter (· ≠ id)) ops
    else true
  | present, .mode _ :: ops => removeFails r present ops
  | present, .period _ :: ops => removeFails r present ops
  | present, .seat _ :: ops => removeFails r present ops

/-- A new field entry (R16). -/
def FieldEntry.new (id : FieldId) (cell : CellNo) : FieldEntry where
  id := id
  cell := cell
  desired := 1
  confirmed := none
  refused := none
  sent := false
  removing := false

/-- Create a field: the lowest-numbered free cell takes its value, and its entry joins the list (R15, R16, R18). -/
def State.createField (s : State) (h : Handle) (id : FieldId) (value : List Byte) : State :=
  match s.lowestFreeCell with
  | none => s
  | some c =>
    (s.writeCell c value).modifyRecord h fun r => { r with fields := insertEntry (.new id c) r.fields }

/-- Apply the field operations of a commit that has passed its checks: cells of dropped entries return first, changed
values are rewritten in place, and created entries take cells (R19, R20, R72). -/
def State.commitFields (s : State) (h : Handle) (ops : List StagedOp) : State :=
  let entries := s.committedEntries h ops
  let created := createdFields (s.record h) ops
  let s1 := s.freeCellsOf (s.droppedEntries h ops)
  let s2 := (s.cellWrites h ops).foldl (fun s w => s.writeCell w.1 w.2) s1
  let s3 := s2.modifyRecord h fun r => { r with fields := entries }
  created.foldl (fun s f => s.createField h f.1 f.2) s3

/-! ## The acknowledgement of an UPDATE (R83 to R86) -/

/-- A set item acknowledged (R83) or refused (R84): its version becomes the confirmed or the refused version. -/
def FieldEntry.acknowledge (e : FieldEntry) (version : BitVec 8) (refused : Bool) : FieldEntry :=
  if refused then { e with refused := some version } else { e with confirmed := some version }

/-- Change the entry of a field id. -/
def Record.modifyEntry (r : Record) (id : FieldId) (f : FieldEntry → FieldEntry) : Record :=
  { r with fields := r.fields.map fun e => if e.id = id then f e else e }

/-- A removal completed: the entry leaves the list and its cell returns (R85). -/
def State.dropField (s : State) (h : Handle) (e : FieldEntry) : State :=
  (s.freeCell e.cell).modifyRecord h fun r => { r with fields := r.fields.filter (·.id ≠ e.id) }

/-- One item of an acknowledged UPDATE, with its refusal bit (R83 to R85). -/
def State.acknowledgeItem (s : State) (h : Handle) (item : Item) (refused : Bool) : State :=
  match item with
  | .set id version =>
    let s := s.modifyRecord h (·.modifyEntry id (·.acknowledge version refused))
    if refused then s.setFlag .refused else s
  | .remove id =>
    match (s.record h).entry? id with
    | none => s
    | some e =>
      if e.removing then s.dropField h e
      else s.modifyRecord h (·.modifyEntry id fun e => { e with confirmed := none })

/-- The items from position `i` on, in frame order, against the refusal bitmap (R86). -/
def State.acknowledgeFrom (s : State) (h : Handle) (refusals : BitVec 6) : Nat → List Item → State
  | _, [] => s
  | i, item :: items => (s.acknowledgeItem h item (refusals.getLsbD i)).acknowledgeFrom h refusals (i + 1) items

/-- An acknowledged UPDATE: its items, and one insertion into the changed set if it carried any (R86). -/
def State.acknowledgeUpdate (s : State) (h : Handle) (items : List Item) (refusals : BitVec 6) : State :=
  (s.acknowledgeFrom h refusals 0 items).markChangedIf (!items.isEmpty) h

end Sys2Proof.Machine
end

