-- ==== Sys2Proof/Machine/Frames.lean ====
section
/-! DEFINITION. The frames of the air link before coding and after decoding: the check (R59, R185), downlink headers
(11.1), and what the Link Codec makes of an uplink frame (R186, 11.2). -/

namespace Sys2Proof.Machine

/-! ## The check -/

/-- One bit of the CRC-16 with generator 1021h. -/
def crcShift (reg : BitVec 16) : BitVec 16 :=
  if reg.msb then (reg <<< 1) ^^^ 0x1021 else reg <<< 1

/-- One byte of the CRC-16, most significant bit first (R185). -/
def crcByte (reg : BitVec 16) (b : Byte) : BitVec 16 :=
  (List.range 8).foldl (fun r _ => crcShift r) (reg ^^^ (b.setWidth 16 <<< 8))

/-- The check over header and payload: start FFFFh, no final inversion (R185). -/
def frameCheck (bytes : List Byte) : BitVec 16 := bytes.foldl crcByte 0xFFFF

/-! ## Downlink frames -/

/-- The link address of a record (R1). -/
def linkAddress (h : Handle) : Byte := byteOf (h.val + 1)

/-- The frame kind of the work of a turn (11.1). -/
def Work.kindCode : Work → Nat
  | .poll => 1
  | .update _ => 2
  | .mode _ => 3
  | .retime _ => 4
  | .move _ => 5
  | .release => 6

/-- The frame kind of an OFFER (11.1). -/
def offerKindCode : Nat := 7

/-- A downlink frame: header, payload and check, before coding (R185). -/
def downlinkFrame (address : Byte) (kind : Nat) (tag : BitVec 4) (level : Level) (superframe : BitVec 16)
    (payload : List Byte) : List Byte :=
  let body :=
    [address, byteOf (16 * kind + tag.toNat), byteOf (64 * level.val + superframe.toNat % 64),
      byteOf payload.length] ++ payload
  body ++ be16 (frameCheck body).toNat

/-- One item of an UPDATE payload (11.1); `value` gives the value of a field id. -/
def Item.bytes (value : FieldId → List Byte) : Item → List Byte
  | .set id version => [byteOf id.val, version, byteOf (value id).length] ++ value id
  | .remove id => [byteOf (128 + id.val), 0]

/-- The payload of the work of a turn (11.1); `value` gives the value of a field id. -/
def Work.payload (value : FieldId → List Byte) : Work → List Byte
  | .poll => []
  | .update items => items.flatMap (Item.bytes value)
  | .mode m => [byteOf m.code]
  | .retime e => [byteOf e.val]
  | .move n => [byteOf n.val]
  | .release => []

/-! ## Uplink frames -/

/-- What an ACK carries (11.2): supply, press total and refusal bitmap. -/
structure Ack where
  supply   : BitVec 4
  presses  : BitVec 4
  refusals : BitVec 6
  deriving DecidableEq, Repr

/-- A decoded uplink frame as it is handed on (R62, R186). `other` is a GOOD frame that is neither ACK nor JOIN. -/
inductive Decoded where
  | damaged
  | ack (address : Byte) (tag : BitVec 4) (contents : Ack) (corrected : Nat)
  | join (address : Byte) (serial : BitVec 32) (supply : BitVec 4) (corrected : Nat)
  | other
  deriving DecidableEq, Repr

/-- What a GOOD frame is, by its reply kind, its payload length and its payload (R186). -/
def classifyGood (address kindTag length : Byte) (payload : List Byte) (corrected : Nat) : Decoded :=
  match kindTag.toNat / 16, length.toNat, payload with
  | 1, 2, [a, b] =>
    .ack address (kindTag.setWidth 4)
      { supply := (a >>> 4).setWidth 4, presses := a.setWidth 4, refusals := b.setWidth 6 } corrected
  | 2, 5, [a, b, c, d, e] => .join address (word32 a b c d) (e.setWidth 4) corrected
  | _, _, _ => .other

/-- GOOD or DAMAGED, and what a GOOD frame carries (R59, R186). The corrected-error count saturates at 63. -/
def classifyUplink (f : Uplink) : Decoded :=
  match f with
  | .undecodable => .damaged
  | .decoded address kindTag level length payload check corrected =>
    if Config.maxPayload < length.toNat then .damaged
    else if frameCheck ([address, kindTag, level, length] ++ payload) = check then
      classifyGood address kindTag length payload (min corrected Config.maxCorrected)
    else .damaged

end Sys2Proof.Machine
end

