-- ==== Sys2Proof/Machine/Quality.lean ====
section
/-! DEFINITION. Wake superframes and the cadence test (R48 to R50, R136), misses, the hunt and LOST (R135 to R141), the
quality window (R132 to R134), and the census (R144, R145). -/

namespace Sys2Proof.Machine

/-- The outcome of a LABEL or PROBE turn that was not SKIPPED (R66); `noReply` is the spec's NONE. A GOOD outcome
carries the corrected-error count and the contents of the ACK. -/
inductive TurnOutcome where
  | good (corrected : Nat) (ack : Ack)
  | damaged
  | noReply
  deriving DecidableEq, Repr

/-! ## Wake superframes -/

/-- The exponent that a state, a mode and a period give (R48). -/
def exponentOf (state : RecordState) (mode : Mode) (period : Exponent) : Exponent :=
  if state = .lost ∨ mode = .dormant then 6 else period

/-- The effective exponent of a record (R48). -/
def Record.effectiveExponent (r : Record) : Exponent := exponentOf r.state r.modeConfirmed r.period

/-- Whether a record with effective exponent `e` is awake in a superframe (R49). -/
def awake (e : Exponent) (h : Handle) (superframe : BitVec 16) : Bool :=
  superframe.toNat % 2 ^ e.val == h.val % 2 ^ e.val

/-- Whether a change of mode that enters or leaves DORMANT is pending (R50). -/
def Record.modeCadencePending (r : Record) : Bool :=
  decide (r.modeDesired ≠ r.modeConfirmed) && decide (r.modeDesired = .dormant ∨ r.modeConfirmed = .dormant)

/-- Whether a change of cadence is pending (R50). -/
def Record.cadencePending (r : Record) : Bool := r.pendingPeriod.isSome || r.modeCadencePending

/-- The effective exponent once the pending changes are confirmed (R136). -/
def Record.targetExponent (r : Record) : Exponent :=
  exponentOf r.state (if r.modeCadencePending then r.modeDesired else r.modeConfirmed) (r.pendingPeriod.getD r.period)

/-- The cadence test: whether a label that is present surely wakes in this superframe (R136). -/
def Record.cadenceTest (r : Record) (h : Handle) (superframe : BitVec 16) : Bool :=
  !r.cadencePending || (awake r.effectiveExponent h superframe && awake r.targetExponent h superframe)

/-! ## Misses, the hunt and LOST -/

/-- Whether a NONE is charged (R135); `before` is the record before step 2 of the close. -/
def chargedMiss (turn : LabelTurn) (before : Record) : Bool :=
  decide (turn.kind = .label) && decide (before.state = .bound ∨ before.state = .missing)
    && before.cadenceTest turn.handle turn.superframe

/-- The offset after this one in the hunt's cyclic order (R137). -/
def WindowOffset.next : WindowOffset → WindowOffset
  | .centered => .late
  | .late => .early
  | .early => .wide
  | .wide => .centered

/-- A record after part of the close, and what the Monitor reports of it: whether the handle joins the changed set, and
whether the record fell to LOST. -/
structure Judged where
  record  : Record
  changed : Bool
  lost    : Bool
  deriving DecidableEq, Repr

/-- A record changed, or not, with nothing to report. -/
def Record.quiet (r : Record) : Judged := { record := r, changed := false, lost := false }

/-- A charged miss in BOUND (R137). -/
def Record.missInBound (r : Record) (limits : QualityLimits) : Judged :=
  let r := { r with missCount := r.missCount + 1 }
  if limits.missLimit ≤ r.missCount then
    { record := { r with state := .missing, huntCandidate := r.offset.next, huntMisses := 0 },
      changed := true, lost := false }
  else r.quiet

/-- A charged miss in MISSING: the hunt counts it, moves on, or ends in LOST (R139). -/
def Record.missInHunt (r : Record) (limits : QualityLimits) : Judged :=
  if limits.huntLength ≤ r.huntMisses + 1 then
    if r.huntCandidate.next = r.offset then
      { record := { r with huntMisses := r.huntMisses + 1, state := .lost, offset := .wide },
        changed := true, lost := true }
    else { r with huntCandidate := r.huntCandidate.next, huntMisses := 0 }.quiet
  else { r with huntMisses := r.huntMisses + 1 }.quiet

/-- The miss, hunt and state effects of an outcome (R131, part 2; R137 to R141). -/
def Record.missEffects (r : Record) (limits : QualityLimits) (turn : LabelTurn) (outcome : TurnOutcome)
    (before : Record) : Judged :=
  match before.state, outcome with
  | .bound, .good _ _ => { r with missCount := 0 }.quiet
  | .bound, .noReply => if chargedMiss turn before then r.missInBound limits else r.quiet
  | .bound, .damaged => r.quiet
  | .missing, .good _ _ =>
    { record := { r with state := .bound, offset := turn.offset, missCount := 0 }, changed := true, lost := false }
  | .missing, .damaged => if turn.kind = .label then { r with huntMisses := 0 }.quiet else r.quiet
  | .missing, .noReply => if chargedMiss turn before then r.missInHunt limits else r.quiet
  | .lost, .good _ _ => { record := { r with state := .bound, missCount := 0 }, changed := true, lost := false }
  | .lost, .damaged => r.quiet
  | .lost, .noReply => r.quiet
  | .free, _ => r.quiet
  | .offered, _ => r.quiet
  | .releasing, _ => r.quiet

/-! ## The quality window -/

/-- Whether a turn counts in the record's quality window (R132). -/
def countedTurn (turn : LabelTurn) (outcome : TurnOutcome) (before : Record) : Bool :=
  decide (turn.kind = .label) && decide (before.state = .bound ∨ before.state = .missing ∨ before.state = .lost)
    && (match outcome with | .good _ _ => true | .damaged => true | .noReply => chargedMiss turn before)

/-- Whether a counted turn is bad (R132). -/
def badTurn (limits : QualityLimits) (outcome : TurnOutcome) : Bool :=
  match outcome with
  | .good corrected _ => decide (limits.errorThreshold < corrected)
  | .damaged => true
  | .noReply => true

/-- One level up, if there is one. -/
def Level.raise (l : Level) : Level := if h : l.val < 3 then ⟨l.val + 1, by omega⟩ else l

/-- One level down, if the level is above the floor (R133). -/
def Level.lower (l floor : Level) : Level := if floor < l then ⟨l.val - 1, by omega⟩ else l

/-- The level and the clean windows at the end of a quality window (R133, R134). -/
def Record.windowVerdict (r : Record) (limits : QualityLimits) : Record :=
  match r.policy with
  | .manual => { r with cleanWindows := 0 }
  | .automatic =>
    if limits.raiseThreshold ≤ r.windowBad then { r with level := Level.raise r.level, cleanWindows := 0 }
    else if r.windowBad = 0 then
      if limits.cleanToLower ≤ r.cleanWindows + 1 then
        { r with level := Level.lower r.level r.floor, cleanWindows := 0 }
      else { r with cleanWindows := r.cleanWindows + 1 }
    else { r with cleanWindows := 0 }

/-- A counted turn is added to the quality window, and the window ends if it is full (R132 to R134). -/
def Record.addToWindow (r : Record) (limits : QualityLimits) (bad : Bool) : Judged :=
  let counted := { r with windowTurns := r.windowTurns + 1, windowBad := r.windowBad + bad.toNat }
  if limits.windowLength ≤ counted.windowTurns then
    let ended := counted.windowVerdict limits
    { record := { ended with windowTurns := 0, windowBad := 0 },
      changed := decide (ended.level ≠ r.level), lost := false }
  else counted.quiet

/-- The Quality Monitor's work on a record at step 3 of a close (R131); `before` is the record before step 2. -/
def Record.judge (r : Record) (limits : QualityLimits) (turn : LabelTurn) (outcome : TurnOutcome) (before : Record) :
    Judged :=
  let missed := r.missEffects limits turn outcome before
  if countedTurn turn outcome before then
    let windowed := missed.record.addToWindow limits (badTurn limits outcome)
    { record := windowed.record, changed := missed.changed || windowed.changed, lost := missed.lost }
  else missed

/-- Step 3 of a close: the record judged, one insertion into the changed set, and LOST if it fell (R131, R139). -/
def State.judgeTurn (s : State) (turn : LabelTurn) (outcome : TurnOutcome) (before : Record) : State :=
  let j := (s.record turn.handle).judge s.limits turn outcome before
  let s := (s.setRecord turn.handle j.record).markChangedIf j.changed turn.handle
  if j.lost then s.setFlag .lost else s

/-! ## The census -/

/-- The running counts with one more close (R145). -/
def CensusCounts.count (c : CensusCounts) (outcome : TurnOutcome) : CensusCounts :=
  match outcome with
  | .good corrected _ =>
    { c with good := min (c.good + 1) Config.maxCount, errorSum := min (c.errorSum + corrected) Config.maxCount }
  | .damaged => { c with damaged := min (c.damaged + 1) Config.maxCount }
  | .noReply => { c with noReply := min (c.noReply + 1) Config.maxCount }

/-- When the turns remaining reach 0 the census completes: the counts are latched, it goes IDLE, and CENSUS_DONE is set
(R145). -/
def State.completeCensus (s : State) : State :=
  if s.census.state = .counting ∧ s.census.remaining = 0 then
    { s with census := { s.census with state := .idle, latched := s.census.running } }.setFlag .censusDone
  else s

/-- The census part of a close (R145). -/
def State.countCensus (s : State) (outcome : TurnOutcome) : State :=
  match s.census.state with
  | .idle => s
  | .counting =>
    { s with
      census :=
        { s.census with
          running := s.census.running.count outcome
          remaining := s.census.remaining - 1 } }.completeCensus

end Sys2Proof.Machine
end

