-- ==== Sys2Proof/Machine/LinkEngine.lean ====
section
/-! DEFINITION. The link engine and the schedule: entry to STOPPED, the start of a superframe with its offer turn, and
the reply window of a turn (R28 to R39, R46, R67, R92 to R94). -/

namespace Sys2Proof.Machine

/-! ## Stopping -/

/-- The Time Base on entry to STOPPED (R38, R39): position 0, receiver-enable deasserted, pending timing taken into
use. -/
def TimeBase.stop (t : TimeBase) : TimeBase :=
  { t with
    link := .stopped, slot := 0, position := 0, tick := 0, settle := none,
    timing := t.pendingTiming.getD t.timing, pendingTiming := none, receiverEnable := false }

/-- The link engine enters STOPPED: no turn context and no late reference stay (R38, R51, R65). -/
def State.halt (s : State) : State :=
  { s with time := s.time.stop, context := none, lateRef := none }

/-- The close of a turn ends a drain: STOPPING becomes STOPPED, with LINK_STATE (R37, R38). -/
def State.endDrain (s : State) : State :=
  if s.time.link = .stopping then s.halt.setFlag .linkState else s

/-- Move the schedule to the start of a turn position of a slot. -/
def State.moveTo (s : State) (slot : Fin 64) (position : Fin 3) : State :=
  { s with time := { s.time with slot := slot, position := position, tick := 0 } }

/-! ## The reply window (R32) -/

/-- The planned open point of a window offset, in ticks after the turn start (R32). -/
def LinkTiming.openPoint (t : LinkTiming) (offset : WindowOffset) : Nat :=
  match offset with
  | .centered => t.turnLength / 2
  | .late => t.turnLength / 2 + t.replyWindow / 4
  | .early => t.turnLength / 2 - t.replyWindow / 4
  | .wide => t.turnLength / 2 - t.replyWindow / 2

/-- The length of the reply window of a window offset (R32). -/
def LinkTiming.windowLength (t : LinkTiming) (offset : WindowOffset) : Nat :=
  match offset with
  | .centered => t.replyWindow
  | .late => t.replyWindow
  | .early => t.replyWindow
  | .wide => 2 * t.replyWindow

/-- The planned close point of a window offset (R32). -/
def LinkTiming.closePoint (t : LinkTiming) (offset : WindowOffset) : Nat :=
  t.openPoint offset + t.windowLength offset

/-! ## The offer turn (R92 to R94) -/

/-- A head record with four offers sent falls to LOST (R93). -/
def State.fallFromOffer (s : State) (h : Handle) : State :=
  (((s.leaveOfferQueue h).modifyRecord h fun r => { r with state := .lost, offset := .wide }).setFlag
    .lost).markChanged h

/-- Records at the head of the offer queue whose attempts are exhausted fall to LOST, one after another (R92). -/
def State.dropExhausted (s : State) : List Handle → State
  | [] => s
  | h :: rest =>
    if (s.record h).attempts < Config.maxAttempts then s else (s.fallFromOffer h).dropExhausted rest

/-- The payload of an OFFER: serial, link address, seat, period exponent and level (R94, 11.1). -/
def Record.offerPayload (r : Record) (h : Handle) : List Byte :=
  be32 r.serial ++
    [linkAddress h, match r.seat with | some n => byteOf n.val | none => 0xFF, byteOf r.period.val,
      byteOf r.level.val]

/-- The OFFER is built for a record and handed to the front end (R67, R94). -/
def State.buildOffer (s : State) (h : Handle) : State :=
  let r := s.record h
  { s with
    context := some (.offer { handle := h, generation := r.generation, superframe := s.time.superframe })
    frameOut := downlinkFrame 0 offerKindCode 0 3 s.time.superframe (r.offerPayload h) }

/-- The offer turn start (R67, R92): idle on an empty queue, SKIPPED with READY inactive, else an OFFER to the first
record that has not had four. -/
def State.offerTurnStart (s : State) : State :=
  match s.offerQueue with
  | [] => s
  | h :: rest =>
    if s.ready then
      let s := s.dropExhausted (h :: rest)
      match s.offerQueue with
      | [] => s
      | first :: _ => s.buildOffer first
    else s.skipTurn

/-! ## Superframe start (R31) -/

/-- The Time Base at a superframe start: the next number, the pending timing in use, slot 0 (R31, R41). -/
def TimeBase.nextSuperframe (t : TimeBase) : TimeBase :=
  { t with
    superframe := t.superframe + 1, slot := 0, position := 0, tick := 0,
    timing := t.pendingTiming.getD t.timing, pendingTiming := none }

/-- A superframe start with its offer turn start; `ready` is the level of READY (R31, R46, R65, R92). -/
def State.beginSuperframe (s : State) (ready : Bool) : State :=
  State.offerTurnStart
    { s with
      time := s.time.nextSuperframe
      seats := coolSeats s.seats
      lateRef := none
      ready := ready }

end Sys2Proof.Machine
end

