-- ==== Sys2Proof/Machine/Turns.lean ====
section
/-! DEFINITION. A turn of a label slot: work selection, the build, the sent effects, the report and the close (R25, R26,
R53 to R66, R95, R114 to R126, R151, R152). -/

namespace Sys2Proof.Machine

/-! ## Work selection (R53 to R56) -/

/-- Whether an edit is open on a record (R56, R157). -/
def State.editOpenOn (s : State) (h : Handle) : Bool :=
  match s.edit with
  | none => false
  | some e => decide (e.handle = h)

/-- Whether a record has a PENDING or REMOVING entry (R56). -/
def Record.hasItems (r : Record) : Bool := r.fields.any fun e => e.item?.isSome

/-- The directive priority of a BOUND, MISSING or LOST record in its own seat (R56). -/
def State.priorityWork (s : State) (h : Handle) : Work :=
  let r := s.record h
  match r.target with
  | some n => .move n
  | none =>
    if r.modeDesired ≠ r.modeConfirmed ∧ r.modeHold = 0 then .mode r.modeDesired
    else
      match r.pendingPeriod with
      | some e => .retime e
      | none => if r.hasItems && !s.editOpenOn h then .update (s.packUpdate r) else .poll

/-- The work of a LABEL turn (R55). -/
def State.labelWork (s : State) (h : Handle) : Work :=
  match (s.record h).state with
  | .offered => .poll
  | .releasing => .release
  | .bound => s.priorityWork h
  | .missing => s.priorityWork h
  | .lost => s.priorityWork h
  | .free => .poll

/-- The work of a PROBE turn (R54). -/
def State.probeWork (s : State) (h : Handle) : Work :=
  if (s.record h).state = .releasing then .release else .poll

/-- The kind of a turn in a seat that a record holds (R53). -/
def Record.turnKind (r : Record) (n : SeatNo) : TurnKind := if r.target = some n then .probe else .label

/-- The work of a turn by its kind. -/
def State.turnWork (s : State) (h : Handle) (kind : TurnKind) : Work :=
  match kind with
  | .probe => s.probeWork h
  | .label => s.labelWork h

/-! ## The build (R57) -/

/-- The window offset in use: the hunt candidate in MISSING, else the record's window offset (R57). -/
def Record.offsetInUse (r : Record) : WindowOffset := if r.state = .missing then r.huntCandidate else r.offset

/-- The record after a build: its next tag advanced, and the sent flags of the set items carried (R57, R58, R81). -/
def Record.built (r : Record) (work : Work) : Record :=
  { r with
    nextTag := r.nextTag + 1
    fields :=
      match work with
      | .update items => r.fields.map (·.markSent items)
      | .poll | .mode _ | .retime _ | .move _ | .release => r.fields }

/-- The turn context that a build writes (R51, R57). -/
def State.newTurn (s : State) (n : SeatNo) (h : Handle) (kind : TurnKind) (work : Work) : LabelTurn :=
  let r := s.record h
  { kind := kind, phase := .sending, seat := n, handle := h, generation := r.generation,
    superframe := s.time.superframe, slot := s.time.slot, work := work, tag := r.nextTag, level := r.level,
    offset := r.offsetInUse, plannedOpen := s.time.timing.openPoint r.offsetInUse,
    plannedClose := s.time.timing.closePoint r.offsetInUse }

/-- The frame of a turn is built, the context created, and the frame handed to the front end (R57, R59). -/
def State.buildFrame (s : State) (n : SeatNo) (h : Handle) (kind : TurnKind) (work : Work) : State :=
  let r := s.record h
  { s with
    context := some (.label (s.newTurn n h kind work))
    frameOut :=
      downlinkFrame (linkAddress h) work.kindCode r.nextTag r.level s.time.superframe
        (work.payload (s.fieldValue r)) }.setRecord h (r.built work)

/-- The slot of a seat: (n div 3) + 1 (2.5). -/
def seatSlot (n : SeatNo) : Fin 64 := ⟨n.val / 3 + 1, by omega⟩

/-- The turn position of a seat: n mod 3 (2.5). -/
def seatPosition (n : SeatNo) : Fin 3 := ⟨n.val % 3, by omega⟩

/-- A turn start of a seat that a record holds (R53, R59): idle if the record is not awake, SKIPPED with READY inactive,
else built. -/
def State.startHeldTurn (s : State) (n : SeatNo) (h : Handle) : State :=
  let r := s.record h
  if r.state ≠ .free ∧ awake r.effectiveExponent h s.time.superframe then
    if s.ready then s.buildFrame n h (r.turnKind n) (s.turnWork h (r.turnKind n)) else s.skipTurn
  else s

/-- A turn start (R53): the late reference goes (R65), and the seat decides what the turn is. -/
def State.startTurn (s : State) (n : SeatNo) (ready : Bool) : State :=
  let s := { s.moveTo (seatSlot n) (seatPosition n) with lateRef := none, ready := ready }
  match s.seatState n with
  | .held h => s.startHeldTurn n h
  | .free => s
  | .cooling _ => s

/-! ## Sent effects (R61, R94) -/

/-- The record after the front end reports a frame of its turn sent (R61, R125, R150). -/
def Record.frameSent (r : Record) (turn : LabelTurn) : Record :=
  { r with
    modeHold := if turn.kind = .label then r.modeHold - 1 else r.modeHold
    attempts := if turn.work = .release then min (r.attempts + 1) Config.maxAttempts else r.attempts }

/-- The phase after the downlink-sent report: the window opens at once if its planned open point has come (R52). -/
def State.phaseAfterSent (s : State) (turn : LabelTurn) : Phase :=
  if s.time.tick < turn.plannedOpen then .waiting else .listening

/-- The frame of a LABEL or PROBE turn in SENDING is reported sent (R52, R61). The sent effects are taken while the turn
drains in STOPPING as well (R34, R70; log 18, the model's reading beside R31 and R125). -/
def State.labelSent (s : State) (turn : LabelTurn) : State :=
  let s := { s with context := some (.label { turn with phase := s.phaseAfterSent turn }) }
  if s.claimLive turn.handle turn.generation then s.modifyRecord turn.handle (·.frameSent turn) else s

/-- The OFFER is reported sent: it is counted, and the handle goes to the tail of the offer queue (R94). -/
def State.countOffer (s : State) (turn : OfferTurn) : State :=
  if (s.record turn.handle).state = .offered ∧ (s.record turn.handle).generation = turn.generation then
    let s := s.modifyRecord turn.handle fun r => { r with attempts := min (r.attempts + 1) Config.maxAttempts }
    { s with offerQueue := s.offerQueue.filter (· ≠ turn.handle) ++ [turn.handle] }
  else s

/-! ## Reports (R25 to R27) -/

/-- The press accounting of a report (R26). -/
def Record.takePressTotal (r : Record) (total : BitVec 4) : Record :=
  match r.pressBaseline with
  | none => { r with pressBaseline := some total }
  | some baseline =>
    { r with
      pressBaseline := some total
      presses := min (r.presses + (total - baseline).toNat) Config.maxPresses }

/-- Last heard, supply and low supply of a report (R25, R27). -/
def Record.takeSupply (r : Record) (limits : QualityLimits) (heard : Heard) (supply : BitVec 4) : Record :=
  { r with
    lastHeard := some heard
    supply := some supply
    lowSupply := decide (supply.toNat ≤ limits.supplyThreshold) }

/-- Whether a report changed a matter of R22: the low supply flag, or a rise of the press accumulator. -/
def Record.reportChanges (before after : Record) : Bool :=
  (before.lowSupply != after.lowSupply) || decide (before.presses < after.presses)

/-- The report of a GOOD reply (R25, R26). -/
def State.report (s : State) (h : Handle) (heard : Heard) (ack : Ack) : State :=
  let before := s.record h
  let after := (before.takeSupply s.limits heard ack.supply).takePressTotal ack.presses
  (s.setRecord h after).markChangedIf (before.reportChanges after) h

/-! ## The effects of a reply (R66, step 2) -/

/-- An OFFERED record binds (R95). -/
def State.bind (s : State) (h : Handle) : State :=
  ((s.modifyRecord h fun r =>
    { r with state := .bound, modeConfirmed := .showing, missCount := 0 }).leaveOfferQueue h).markChanged h

/-- A move is confirmed: the target becomes the seat, and the old seat FREE (R114, R115). -/
def State.confirmMove (s : State) (h : Handle) : State :=
  match (s.record h).target with
  | none => s
  | some n =>
    ((s.setSeat? (s.record h).seat .free).modifyRecord h fun r =>
      { r with seat := some n, target := none }).markChanged h

/-- A retime is confirmed (R119). -/
def State.confirmRetime (s : State) (h : Handle) (e : Exponent) : State :=
  (s.modifyRecord h fun r =>
    { r with period := e, pendingPeriod := if r.pendingPeriod = some e then none else r.pendingPeriod }).markChanged h

/-- A mode is confirmed; the hold is set by a change into or out of DORMANT (R124). -/
def State.confirmMode (s : State) (h : Handle) (m : Mode) : State :=
  (s.modifyRecord h fun r =>
    { r with
      modeConfirmed := m
      modeHold :=
        if decide (r.modeConfirmed = .dormant) != decide (m = .dormant) then Config.modeHoldTurns
        else r.modeHold }).markChanged h

/-- A release completes (R151, R152, R99): vacated, RELEASED set, the handle inserted. -/
def State.completeRelease (s : State) (h : Handle) (outcome : ReleaseOutcome) (left : Seat) : State :=
  ((s.vacate h outcome left).setFlag .released).markChanged h

/-- What a GOOD reply of a LABEL turn confirms on a BOUND, MISSING or LOST record: only what was sent (R126). -/
def State.confirmWork (s : State) (h : Handle) (work : Work) (ack : Ack) : State :=
  match work with
  | .poll => s
  | .update items => s.acknowledgeUpdate h items ack.refusals
  | .mode m => s.confirmMode h m
  | .retime e => s.confirmRetime h e
  | .move n => if (s.record h).target = some n then s.confirmMove h else s
  | .release => s

/-- The effect of a GOOD reply that completes no release (R95, R114 to R126, R154). -/
def State.goodEffects (s : State) (turn : LabelTurn) (ack : Ack) : State :=
  match (s.record turn.handle).state, turn.kind with
  | .offered, .label => s.bind turn.handle
  | .bound, .label => s.confirmWork turn.handle turn.work ack
  | .missing, .label => s.confirmWork turn.handle turn.work ack
  | .lost, .label => s.confirmWork turn.handle turn.work ack
  | .bound, .probe => s.confirmMove turn.handle
  | .missing, .probe => s.confirmMove turn.handle
  | .lost, .probe => s.confirmMove turn.handle
  | .offered, .probe => s
  | .releasing, _ => s
  | .free, _ => s

/-- Whether the close of a turn can complete a release: the frame was a RELEASE and the record is RELEASING (R66, R151,
R152, R159; log 15). -/
def State.releaseTurn (s : State) (turn : LabelTurn) : Bool :=
  decide (turn.work = .release) && decide ((s.record turn.handle).state = .releasing)

/-- A RELEASE that goes unanswered completes the release at attempt count 4 (R152). -/
def State.releaseUnanswered (s : State) (turn : LabelTurn) : State :=
  if s.releaseTurn turn ∧ Config.maxAttempts ≤ (s.record turn.handle).attempts then
    s.completeRelease turn.handle .unanswered .cooled
  else s

/-- Step 2 of a close (R66): the effects on the record's state, content and directives. A GOOD reply to a RELEASE
completes the release (R151). -/
def State.replyEffects (s : State) (turn : LabelTurn) (outcome : TurnOutcome) : State :=
  match outcome with
  | .good _ ack =>
    if s.releaseTurn turn then s.completeRelease turn.handle .acknowledged .free else s.goodEffects turn ack
  | .damaged => s.releaseUnanswered turn
  | .noReply => s.releaseUnanswered turn

/-! ## The close (R66) -/

/-- Step 1 of a close: the report of a GOOD reply (R25). -/
def State.closeReport (s : State) (turn : LabelTurn) (outcome : TurnOutcome) : State :=
  match outcome with
  | .good _ ack => s.report turn.handle { superframe := turn.superframe, slot := turn.slot } ack
  | .damaged => s
  | .noReply => s

/-- The claim to the Label Table (R66): void under R2, else report, effects and quality in this order. -/
def State.applyClose (s : State) (turn : LabelTurn) (outcome : TurnOutcome) : State :=
  if s.claimLive turn.handle turn.generation then
    let reported := s.closeReport turn outcome
    let before := reported.record turn.handle
    let effected := reported.replyEffects turn outcome
    if (effected.record turn.handle).state = .free then effected else effected.judgeTurn turn outcome before
  else s

/-- A LABEL or PROBE turn closes GOOD, DAMAGED or NONE (R66): the context goes, both claims are taken, and a drain
ends. The claims are taken in full in STOPPING as well (log 18). -/
def State.closeTurn (s : State) (turn : LabelTurn) (outcome : TurnOutcome) : State :=
  (({ s with context := none }.applyClose turn outcome).countCensus outcome).endDrain

/-- A turn in flight closes SKIPPED (R60, R67): the context goes, the skip is counted, and a drain ends. -/
def State.closeSkipped (s : State) : State := ({ s with context := none }.skipTurn).endDrain

end Sys2Proof.Machine
end

