-- ==== Sys2Proof/Machine/Admission.lean ====
section
/-! DEFINITION. The Admission Unit: JOIN processing, rejoin, the join queue, and setting up an admitted record (R11,
R96 to R107). -/

namespace Sys2Proof.Machine

/-! ## The join queue (R103, R104) -/

/-- Whether the join queue holds a serial. -/
def State.inJoinQueue (s : State) (serial : BitVec 32) : Bool := s.joinQueue.any (·.serial == serial)

/-- An entry refreshed by a JOIN from its serial (R104). -/
def JoinEntry.refresh (e : JoinEntry) (supply : BitVec 4) (superframe : BitVec 16) (corrected : Nat) : JoinEntry :=
  { e with heard := min (e.heard + 1) Config.maxHeard, supply := supply, lastHeard := superframe,
           corrected := corrected }

/-- A JOIN from a serial that matches no record: refreshed, appended or dropped (R104). -/
def State.queueJoin (s : State) (serial : BitVec 32) (supply : BitVec 4) (corrected : Nat) : State :=
  if s.inJoinQueue serial then
    { s with
      joinQueue := s.joinQueue.map fun e =>
        if e.serial = serial then e.refresh supply s.time.superframe corrected else e }
  else if s.joinQueue.length < Config.joinQueueSize then
    State.setFlag
      { s with
        joinQueue := s.joinQueue ++
          [{ serial := serial, supply := supply, heard := 1, lastHeard := s.time.superframe,
             corrected := corrected }] } .joinHeard
  else s.setFlag .joinDropped

/-- Take a serial out of the join queue, wherever it stands (R103, R107). -/
def State.leaveJoinQueue (s : State) (serial : BitVec 32) : State :=
  { s with joinQueue := s.joinQueue.filter fun e => e.serial ≠ serial }

/-! ## JOINs from known serials (R98 to R101) -/

/-- The report of a JOIN: the superframe with slot 0, and the supply the JOIN carries (R27). -/
def State.joinReport (s : State) (r : Record) (supply : BitVec 4) : Record :=
  r.takeSupply s.limits { superframe := s.time.superframe, slot := 0 } supply

/-- A JOIN from the serial of an OFFERED record (R98). -/
def State.joinOffered (s : State) (h : Handle) (supply : BitVec 4) : State :=
  let before := s.record h
  let after := s.joinReport { before with attempts := 0 } supply
  (s.setRecord h after).markChangedIf (before.lowSupply != after.lowSupply) h

/-- A field entry that is not REMOVING after a rejoin (R101). -/
def FieldEntry.rejoined (e : FieldEntry) : FieldEntry := { e with confirmed := none, refused := none, sent := false }

/-- The record after a rejoin, its report apart (R100, R101). -/
def Record.rejoined (r : Record) : Record :=
  { r with
    state := .offered
    attempts := 0
    seat := if r.target.isSome then r.target else r.seat
    target := none
    period := r.pendingPeriod.getD r.period
    pendingPeriod := none
    modeConfirmed := .showing
    modeHold := 0
    missCount := 0
    huntMisses := 0
    offset := .centered
    pressBaseline := none
    fields := (r.fields.filter fun e => !e.removing).map FieldEntry.rejoined }

/-- A rejoin: a JOIN from the serial of a BOUND, MISSING or LOST record (R100). -/
def State.rejoin (s : State) (h : Handle) (supply : BitVec 4) : State :=
  let r := s.record h
  let s := s.freeCellsOf (r.fields.filter (·.removing))
  let s := if r.target.isSome then s.setSeat? r.seat .cooled else s
  let s := s.setRecord h (s.joinReport r.rejoined supply)
  { s with offerQueue := s.offerQueue ++ [h] }.markChanged h

/-- A JOIN with address 0 and a valid serial, by where its serial is found (R97). -/
def State.processJoin (s : State) (serial : BitVec 32) (supply : BitVec 4) (corrected : Nat) : State :=
  match s.findSerial serial with
  | none => s.queueJoin serial supply corrected
  | some h =>
    match (s.record h).state with
    | .offered => s.joinOffered h supply
    | .bound => s.rejoin h supply
    | .missing => s.rejoin h supply
    | .lost => s.rejoin h supply
    | .releasing => (s.completeRelease h .acknowledged .free).queueJoin serial supply corrected
    | .free => s

/-- A frame taken in the join window (R96). -/
def State.takeJoinFrame (s : State) (frame : Decoded) : State :=
  match frame with
  | .join address serial supply corrected =>
    if address = 0 ∧ validSerial serial then s.processJoin serial supply corrected else s
  | .damaged => s
  | .ack _ _ _ _ => s
  | .other => s

/-! ## ADMIT (R11, R106, R107) -/

/-- The record that ADMIT sets up (R11). -/
def Record.admitted (r : Record) (serial : BitVec 32) (period : Exponent) (seat : SeatNo) (level : Level) : Record :=
  { Record.vacant with
    state := .offered, generation := r.generation + 1, serial := serial, seat := some seat, period := period,
    level := level }

/-- The handle and the seat an ADMIT takes, or the result that refuses it; its parameters are in range (R106). -/
def State.admitChoice (s : State) (serial : BitVec 32) (seat : SeatRequest) : Except ResultCode (Handle × SeatNo) :=
  if (s.findSerial serial).isSome then .error .duplicate
  else
    match s.lowestFreeRecord with
    | none => .error .tableFull
    | some h =>
      match s.claimSeat seat with
      | .error e => .error e
      | .ok n => .ok (h, n)

/-- An ADMIT that has passed its checks (R107). -/
def State.takeUp (s : State) (h : Handle) (serial : BitVec 32) (period : Exponent) (seat : SeatNo) (level : Level) :
    State :=
  let s := (s.setSeat seat (.held h)).modifyRecord h (·.admitted serial period seat level)
  { s with offerQueue := s.offerQueue ++ [h] }.leaveJoinQueue serial

end Sys2Proof.Machine
end

