-- ==== Sys2Proof/Machine/TurnEvents.lean ====
section
/-! DEFINITION. Meanings: the events of a turn (R52, R53, R60 to R65). -/

namespace Sys2Proof.Machine

/-- TURN_START: raised in RUNNING, with no turn in flight (R29, R34, R51, R53). -/
def execTurnStart (seat : SeatNo) (ready : Bool) (s : State) : Answer :=
  s.event fun s => if s.time.link = .running ∧ s.context = none then s.startTurn seat ready else s

/-- DOWNLINK_SENT: the sent effects of a LABEL or PROBE turn in SENDING, or of an offer turn, which closes; in any other
case the report is discarded (R52, R61, R67, R94). -/
def execDownlinkSent (s : State) : Answer :=
  s.event fun s =>
    match s.context with
    | some (.label turn) => if turn.phase = .sending then s.labelSent turn else s
    | some (.offer turn) => ({ s with context := none }.countOffer turn).endDrain
    | some (.joinWindow _) => s
    | none => s

/-- The tick count has reached a point of the present turn. -/
def State.reachTick (s : State) (n : Nat) : State :=
  { s with time := { s.time with tick := max s.time.tick n } }

/-- PLANNED_OPEN: a WAITING turn becomes LISTENING; a turn still SENDING has its window opened by the downlink-sent
report (R52). -/
def execPlannedOpen (s : State) : Answer :=
  s.event fun s =>
    match s.context with
    | some (.label turn) =>
      match turn.phase with
      | .waiting => { s.reachTick turn.plannedOpen with context := some (.label { turn with phase := .listening }) }
      | .sending => s.reachTick turn.plannedOpen
      | .listening => s
    | some (.offer _) => s
    | some (.joinWindow _) => s
    | none => s

/-- The planned close point of a turn that is LISTENING: NONE, and the late reference is kept (R65). -/
def State.closeNone (s : State) (turn : LabelTurn) : State :=
  { s with lateRef := some { address := linkAddress turn.handle, tag := turn.tag } }.closeTurn turn .noReply

/-- PLANNED_CLOSE: a LISTENING turn closes NONE (R65), a turn still SENDING closes SKIPPED (R60). -/
def execPlannedClose (s : State) : Answer :=
  s.event fun s =>
    match s.context with
    | some (.label turn) =>
      match turn.phase with
      | .sending => (s.reachTick turn.plannedClose).closeSkipped
      | .waiting => s
      | .listening => (s.reachTick turn.plannedClose).closeNone turn
    | some (.offer _) => s
    | some (.joinWindow _) => s
    | none => s

/-- A frame taken in a LISTENING turn: a matching ACK closes it GOOD, a DAMAGED frame closes it DAMAGED, anything else is
a stray (R63, R64). -/
def State.takeReply (s : State) (turn : LabelTurn) (frame : Decoded) : State :=
  match frame with
  | .damaged => s.closeTurn turn .damaged
  | .ack address tag contents corrected =>
    if address = linkAddress turn.handle ∧ tag = turn.tag then s.closeTurn turn (.good corrected contents) else s
  | .join _ _ _ _ => s
  | .other => s

/-- A frame taken with no context in being: a late reply is counted (R62, R65). -/
def State.takeLate (s : State) (frame : Decoded) : State :=
  match s.lateRef, frame with
  | some ref, .ack address tag _ _ => if address = ref.address ∧ tag = ref.tag then s.countLate else s
  | some _, .damaged => s
  | some _, .join _ _ _ _ => s
  | some _, .other => s
  | none, _ => s

/-- A decoded frame, by the turn context in being (R62). -/
def State.takeFrame (s : State) (frame : Decoded) : State :=
  match s.context with
  | some (.label turn) => if turn.phase = .listening then s.takeReply turn frame else s
  | some (.joinWindow _) => s.takeJoinFrame frame
  | some (.offer _) => s
  | none => s.takeLate frame

/-- UPLINK_FRAME (R62). -/
def execUplinkFrame (frame : Uplink) (s : State) : Answer := s.event fun s => s.takeFrame (classifyUplink frame)

end Sys2Proof.Machine
end

