-- ==== Sys2Proof/Machine/Clock.lean ====
section
/-! DEFINITION. One tick of the reference input, which is what a step on an empty queue is (log 1): the settle countdown
and the position of the schedule advance, and the events that the Time Base raises at the new point join the queue (R28
to R31, R36, R52, R67). -/

namespace Sys2Proof.Machine

/-- Let the Time Base raise events. -/
def State.raiseEvents (s : State) (events : List Instr) : State := { s with pending := s.pending ++ events }

/-- A tick of the settle countdown: at 2048 it expires (R36). -/
def State.tickSettle (s : State) : State :=
  match s.time.settle with
  | none => s
  | some n =>
    let s' := { s with time := { s.time with settle := some (min (n + 1) Config.settleTicks) } }
    if Config.settleTicks ≤ n + 1 then s'.raiseEvents [.settleExpiry s.ready] else s'

/-- The events that a turn in flight has at a tick count of its turn (R52). -/
def State.pointEvents (s : State) (n : Nat) : List Instr :=
  match s.context with
  | some (.label turn) =>
    (if n = turn.plannedOpen then [.plannedOpen] else []) ++ (if n = turn.plannedClose then [.plannedClose] else [])
  | some (.offer _) => []
  | some (.joinWindow _) => []
  | none => []

/-- The seat of a turn of a label slot (R29). -/
def seatAt? (slot : Fin 64) (position : Fin 3) : Option SeatNo :=
  if h : 1 ≤ slot.val then some ⟨3 * (slot.val - 1) + position.val, by omega⟩ else none

/-- The place of the schedule after this turn position (R28). -/
def nextPlace (slot : Fin 64) (position : Fin 3) : Fin 64 × Fin 3 :=
  if position = 2 then (slot + 1, 0) else (slot, position + 1)

/-- The events at the start of the join window (R30, R67). -/
def State.joinStartEvents (s : State) : List Instr :=
  (match s.context with
    | some (.offer _) => [.offerTurnTimeout]
    | some (.label _) => []
    | some (.joinWindow _) => []
    | none => []) ++
  (if s.time.timing.admissionOpen then [.joinWindowStart] else [])

/-- The events at the start of a turn of a label slot, after the join window end that slot 1 begins with (R29, R30). -/
def State.turnStartEvents (s : State) (n : SeatNo) : List Instr :=
  (match s.context with
    | some (.joinWindow _) => [.joinWindowEnd]
    | some (.label _) => []
    | some (.offer _) => []
    | none => []) ++ [.turnStart n s.ready]

/-- The events that the Time Base raises at a place of the schedule in RUNNING (R29 to R31, R34). -/
def State.placeEvents (s : State) (slot : Fin 64) (position : Fin 3) : List Instr :=
  match seatAt? slot position with
  | some n => s.turnStartEvents n
  | none => if position = 0 then [.superframeStart s.ready] else if position = 1 then s.joinStartEvents else []

/-- In STOPPING no event of a new place is raised; an offer turn in flight meets its end (R34, R67). -/
def State.drainEvents (s : State) : List Instr :=
  match s.context with
  | some (.offer _) => [.offerTurnTimeout]
  | some (.label _) => []
  | some (.joinWindow _) => []
  | none => []

/-- The turn position ends: the events of the next place are raised, and the first of them moves the schedule; if there
is none the schedule moves at once (log 3). -/
def State.nextTurn (s : State) : State :=
  let place := nextPlace s.time.slot s.time.position
  let events := if s.time.link = .running then s.placeEvents place.1 place.2 else s.drainEvents
  if events.isEmpty then s.moveTo place.1 place.2 else s.raiseEvents events

/-- A tick of the schedule (R28). -/
def State.tickSchedule (s : State) : State :=
  if s.time.tick + 1 < s.time.timing.turnLength then
    { s with time := { s.time with tick := s.time.tick + 1 } }.raiseEvents (s.pointEvents (s.time.tick + 1))
  else s.nextTurn

/-- One tick of the reference input (R28, R36): nothing moves in STOPPED or in reset. -/
def State.tickClock (s : State) : State :=
  if s.inReset then s
  else
    match s.time.link with
    | .stopped => s
    | .starting => s.tickSettle
    | .running => s.tickSchedule
    | .stopping => s.tickSchedule

end Sys2Proof.Machine
end

