-- ==== Sys2Proof/Machine/Layouts.lean ====
section
/-! DEFINITION. The layouts of the responses (11.3, R181, R182, R187, R188). -/

namespace Sys2Proof.Machine

/-- The byte of a value that may be absent and reads FFh when it is (R188). -/
def byteOrFF (n : Option Nat) : Byte := match n with | none => 0xFF | some n => byteOf n

/-- An entry as READ RECORD and READ FIELD show it; `size` is the length of its value (R188). -/
def FieldEntry.bytes (e : FieldEntry) (size : Nat) : List Byte :=
  [byteOf (e.id.val + 16 * e.status.code + 64 * e.sent.toNat + 128 * e.removing.toNat),
    byteOf (size + 16 * e.confirmed.isSome.toNat + 32 * e.refused.isSome.toNat),
    e.desired, e.confirmed.getD 0, e.refused.getD 0]

/-- An entry as the state holds it, with the length of its cell's value. -/
def State.entryBytes (s : State) (e : FieldEntry) : List Byte := e.bytes (s.cellValue e.cell).length

/-- Whether the turn context names a record's handle and generation (R1, R51). -/
def State.frameInFlight (s : State) (h : Handle) : Bool :=
  match s.context with
  | some (.label turn) => decide (turn.handle = h) && turn.generation == (s.record h).generation
  | some (.offer turn) => decide (turn.handle = h) && turn.generation == (s.record h).generation
  | some (.joinWindow _) => false
  | none => false

/-- The first 25 bytes of the snapshot of a record that is not FREE (R188). -/
def State.recordHead (s : State) (h : Handle) : List Byte :=
  let r := s.record h
  [byteOf r.state.code, r.generation] ++ be32 r.serial ++
  [byteOf r.outcome.code, byteOrFF (r.seat.map Fin.val), byteOrFF (r.target.map Fin.val), byteOf r.period.val,
    byteOrFF (r.pendingPeriod.map Fin.val),
    byteOf (r.modeDesired.code + 4 * r.modeConfirmed.code + 16 * r.modeHold),
    byteOf (r.level.val + 4 * r.floor.val + 16 * r.policy.code),
    byteOf (r.offset.code + 4 * r.huntCandidate.code + 16 * r.huntMisses),
    byteOf (r.missCount + 16 * r.attempts), byteOf r.windowTurns, byteOf r.windowBad,
    byteOf (r.cleanWindows + 16 * r.nextTag.toNat)] ++
  (match r.lastHeard with
    | none => [0, 0, 0]
    | some heard => be16 heard.superframe.toNat ++ [byteOf heard.slot.val]) ++
  [byteOf ((s.frameInFlight h).toNat + 2 * (s.editOpenOn h).toNat + 4 * r.lowSupply.toNat
      + 8 * r.lastHeard.isSome.toNat + 16 * r.supply.isSome.toNat + 32 * r.pressBaseline.isSome.toNat),
    byteOf ((r.supply.getD 0).toNat + 16 * (r.pressBaseline.getD 0).toNat), byteOf r.presses,
    byteOf r.fields.length]

/-- The READ RECORD response (R167, R188). -/
def State.recordBytes (s : State) (h : Handle) : List Byte :=
  let r := s.record h
  if r.state = .free then [byteOf r.state.code] ++ be32 r.serial ++ [byteOf r.outcome.code]
  else s.recordHead h ++ r.fields.flatMap s.entryBytes

/-- The READ FIELD response of an entry (R168, R188). -/
def State.fieldBytes (s : State) (e : FieldEntry) : List Byte := s.entryBytes e ++ s.cellValue e.cell

/-- The READ STATUS response (R181). -/
def State.statusBytes (s : State) : List Byte :=
  [byteOf s.time.link.code] ++ be16 s.time.superframe.toNat ++
  [byteOf s.freeRecords, byteOf s.freeSeats, byteOf s.coolingSeats] ++ be16 s.freeCellCount ++
  [byteOf s.joinQueue.length, byteOf s.offerQueue.length] ++ be16 s.port.skipped ++ be16 s.port.late ++
  [byteOf s.port.resetCause.code]

/-- The READ IDENT response (R182). -/
def identBytes : List Byte :=
  be16 Config.partCode ++ [byteOf Config.revision, byteOf 160, byteOf 189] ++ be16 512

/-- The READ EVENTS response: flag word and mask word (R178). -/
def State.eventBytes (s : State) : List Byte := be16 s.port.flags.toNat ++ be16 s.port.mask.toNat

/-- The READ TIME response (R42). -/
def State.timeBytes (s : State) : List Byte :=
  be16 s.time.superframe.toNat ++ [byteOf s.time.slot.val, byteOf s.time.position.val, byteOf s.time.link.code]

/-- The READ CENSUS response (R146). -/
def Census.bytes (c : Census) : List Byte :=
  [byteOf c.state.code] ++ be16 c.remaining ++ be16 c.latched.good ++ be16 c.latched.damaged ++
  be16 c.latched.noReply ++ be16 c.latched.errorSum

/-- The READ JOIN response (R105). -/
def JoinEntry.bytes (e : JoinEntry) : List Byte :=
  be32 e.serial ++ [byteOf e.supply.toNat, byteOf e.heard] ++ be16 e.lastHeard.toNat ++ [byteOf e.corrected]

/-- The handles LIST STATE returns: the lowest at or above `start` whose records are in a state (R169). -/
def State.listState (s : State) (state : RecordState) (start : Handle) : List Handle :=
  ((List.finRange 160).filter fun h => decide (start ≤ h) && decide ((s.record h).state = state)).take
    Config.listLimit

end Sys2Proof.Machine
end

