-- ==== Sys2Proof/Machine/PortCommands.lean ====
section
/-! DEFINITION. Meanings: the start and the end of a transaction, and the commands of the Command Port (R172 to R184). -/

namespace Sys2Proof.Machine

/-- A command that takes no parameters: refused with LENGTH if it was given any (R173). -/
def State.command0 (s : State) (params : List Byte) (effect : State → State) : Answer :=
  s.command params fun s => if params.isEmpty then effect s else s.refuse .length

/-- CHIP_SELECT_FALL: a transaction begins, and the port status byte is captured (R172, R175). In reset the port takes
no transaction (R172, R183). -/
def execChipSelectFall (s : State) : Answer :=
  .next { s with
    port := { s.port with select := if s.inReset then .abandoned else .low s.statusByte } }

/-- EMPTY_TRANSACTION: the chip select rises with no whole byte clocked in; nothing is executed (R172). -/
def execEmptyTransaction (s : State) : Answer := .next s.deselect

/-- UNKNOWN_COMMAND: refused with UNKNOWN; its parameter bytes are ignored (R173). -/
def execUnknownCommand (_code : Byte) (params : List Byte) (s : State) : Answer :=
  s.command params fun s => s.refuse .unknown

/-- NO_OPERATION: always OK, with a response of length 0 (R177). -/
def execNoOperation (params : List Byte) (s : State) : Answer :=
  s.command0 params fun s => s.accept

/-- What READ RESPONSE clocks out under `n` bytes after the status byte: the length, the buffer, then 00h (R174). -/
def State.streamed (s : State) (n : Nat) : List Byte :=
  (byteOf s.port.response.length :: s.port.response ++ List.replicate n 0).take n

/-- READ_RESPONSE: streams the buffer; its parameter bytes are ignored, and neither the buffer nor the last result
changes (R173, R174). -/
def execReadResponse (params : List Byte) (s : State) : Answer :=
  .next (s.takeCommand (s.streamed params.length) fun s => s)

/-- READ_STATUS (R181). -/
def execReadStatus (params : List Byte) (s : State) : Answer :=
  s.command0 params fun s => s.reply .ok s.statusBytes

/-- READ_IDENT (R182). -/
def execReadIdent (params : List Byte) (s : State) : Answer :=
  s.command0 params fun s => s.reply .ok identBytes

/-- The port after the RESET command: flags, mask, response, last result and counts cleared, attention released, cause
COMMAND (R184). -/
def Port.afterReset (p : Port) : Port :=
  { p with
    flags := 0, mask := 0, attention := false, lastResult := .ok, response := [], skipped := 0, late := 0,
    resetCause := .command }

/-- The RESET command in every block (R184): the link stops with a turn in flight abandoned (R39, R70), the join queue
empties, the edit aborts, the census goes IDLE, and the port is cleared. -/
def State.resetByCommand (s : State) : State :=
  { s.halt with joinQueue := [], edit := none, census := .idle, port := s.port.afterReset }

/-- RESET (R184). -/
def execResetCommand (params : List Byte) (s : State) : Answer :=
  s.command0 params State.resetByCommand

/-- READ_EVENTS: no flag is cleared (R178). -/
def execReadEvents (params : List Byte) (s : State) : Answer :=
  s.command0 params fun s => s.reply .ok s.eventBytes

/-- CLEAR_EVENTS: each flag whose bit is 1 in the word is cleared; bits 9 to 15 are ignored (R179). -/
def execClearEvents (params : List Byte) (s : State) : Answer :=
  s.command params fun s =>
    match params with
    | [hi, lo] => (s.withEvents (s.port.flags &&& ~~~(BitVec.ofNat 9 (word16 hi lo))) s.port.mask).accept
    | _ => s.refuse .length

/-- SET_EVENT_MASK: the word becomes the mask; bits 9 to 15 are stored as 0 (R179). -/
def execSetEventMask (params : List Byte) (s : State) : Answer :=
  s.command params fun s =>
    match params with
    | [hi, lo] => (s.withEvents s.port.flags (BitVec.ofNat 9 (word16 hi lo))).accept
    | _ => s.refuse .length

end Sys2Proof.Machine
end

