-- ==== Sys2Proof/Machine/AdmissionCommands.lean ====
section
/-! DEFINITION. Meanings: the commands of the Admission Unit, and RETIRE and FORGET (R105 to R107, R147 to R149, R155). -/

namespace Sys2Proof.Machine

/-- READ_JOIN: the head entry, or EMPTY (R105). -/
def execReadJoin (params : List Byte) (s : State) : Answer :=
  s.command0 params fun s =>
    match s.joinQueue with
    | [] => s.refuse .empty
    | e :: _ => s.reply .ok e.bytes

/-- DROP_JOIN: the head entry is removed, or EMPTY (R105). -/
def execDropJoin (params : List Byte) (s : State) : Answer :=
  s.command0 params fun s =>
    match s.joinQueue with
    | [] => s.refuse .empty
    | _ :: rest => { s with joinQueue := rest }.accept

/-- ADMIT with its parameters read: VALUE if one is out of range (R106, check 1), then the other checks, then the record
is taken (R107). -/
def State.admitWith (s : State) (serial : BitVec 32) (period : Option Exponent) (seat : Option SeatRequest)
    (level : Option Level) : State :=
  match validSerial serial, period, level, seat with
  | true, some period, some level, some seat =>
    match s.admitChoice serial seat with
    | .error e => s.refuse e
    | .ok (h, n) => (s.takeUp h serial period n level).reply .ok [byteOf h.val]
  | _, _, _, _ => s.refuse .value

/-- ADMIT (R106, R107). -/
def execAdmit (params : List Byte) (s : State) : Answer :=
  s.command params fun s =>
    match params with
    | [a, b, c, d, period, seat, level] =>
      s.admitWith (word32 a b c d) (exponent? period) (seatRequest? seat) (level? level)
    | _ => s.refuse .length

/-- RETIRE of a record of the table, by its state (R147 to R149). -/
def State.retire (s : State) (h : Handle) : State :=
  match (s.record h).state with
  | .free => s.refuse .noRecord
  | .offered =>
    if s.editOpenOn h then s.refuse .editOpen else (s.vacate h .unanswered .cooled).accept
  | .releasing => if s.editOpenOn h then s.refuse .editOpen else s.accept
  | .bound | .missing | .lost =>
    if s.editOpenOn h then s.refuse .editOpen
    else (s.modifyRecord h fun r => { r with state := .releasing, attempts := 0 }).accept

/-- RETIRE (R147). -/
def execRetire (params : List Byte) (s : State) : Answer :=
  s.command params fun s =>
    match params with
    | [h] =>
      match handle? h with
      | none => s.refuse .value
      | some h => s.retire h
    | _ => s.refuse .length

/-- FORGET of a record of the table: vacated in every state, its seats cooling, its handle out of the changed set
(R24, R155). -/
def State.forget (s : State) (h : Handle) : State :=
  if (s.record h).state = .free then s.refuse .noRecord
  else if s.editOpenOn h then s.refuse .editOpen
  else ((s.vacate h .forgotten .cooled).unmarkChanged h).accept

/-- FORGET (R155). -/
def execForget (params : List Byte) (s : State) : Answer :=
  s.command params fun s =>
    match params with
    | [h] =>
      match handle? h with
      | none => s.refuse .value
      | some h => s.forget h
    | _ => s.refuse .length

end Sys2Proof.Machine
end

