-- ==== Sys2Proof/Machine/Edits.lean ====
section
/-! DEFINITION. The Edit Stage: staging, and the working copy, the checks and the application of a commit (R110, R117,
R122, R157 to R165). -/

namespace Sys2Proof.Machine

/-- A STAGE command: its three checks in order, then the operation is appended; `op` is absent if a parameter is out of
range (R160). -/
def State.stage (s : State) (op : Option StagedOp) : State :=
  match s.edit with
  | none => s.refuse .noEdit
  | some edit =>
    match op with
    | none => s.refuse .value
    | some op =>
      if edit.ops.length < Config.maxStaged then
        { s with edit := some { edit with ops := edit.ops ++ [op] } }.accept
      else s.refuse .tooMany

/-- The edit context closes (R157). -/
def State.closeEdit (s : State) : State := { s with edit := none }

/-! ## The last operation of a kind (R163) -/

/-- The last staged mode. -/
def lastMode (ops : List StagedOp) : Option Mode :=
  ops.reverse.findSome? fun op =>
    match op with | .mode m => some m | .set _ _ | .remove _ | .period _ | .seat _ => none

/-- The last staged period. -/
def lastPeriod (ops : List StagedOp) : Option Exponent :=
  ops.reverse.findSome? fun op =>
    match op with | .period e => some e | .set _ _ | .remove _ | .mode _ | .seat _ => none

/-- The last staged seat. -/
def lastSeat (ops : List StagedOp) : Option SeatRequest :=
  ops.reverse.findSome? fun op =>
    match op with | .seat n => some n | .set _ _ | .remove _ | .mode _ | .period _ => none

/-- The seat change of an edit: the last seat operation, unless it names the present seat (R110). -/
def Record.seatChange (r : Record) (ops : List StagedOp) : Option SeatRequest :=
  match lastSeat ops with
  | none => none
  | some .any => some .any
  | some (.named n) => if r.seat = some n then none else some (.named n)

/-- A committed mode change (R122). -/
def Record.commitMode (r : Record) (mode : Option Mode) : Record := { r with modeDesired := mode.getD r.modeDesired }

/-- A committed period change (R117). -/
def Record.commitPeriod (r : Record) (period : Option Exponent) : Record :=
  match period with
  | none => r
  | some v => { r with pendingPeriod := if v = r.period then none else some v }

/-- A committed seat change: the seat of an OFFERED record is replaced and its old seat cools; any other record takes a
move target (R110, R111). -/
def State.commitSeat (s : State) (h : Handle) (seat : Option SeatNo) : State :=
  match seat with
  | none => s
  | some n =>
    if (s.record h).state = .offered then
      ((s.setSeat? (s.record h).seat .cooled).setSeat n (.held h)).modifyRecord h fun r => { r with seat := some n }
    else (s.setSeat n (.held h)).modifyRecord h fun r => { r with target := some n }

/-! ## The checks (R164) -/

/-- The number of entries the working copy holds, REMOVING entries included. -/
def State.copySize (s : State) (h : Handle) (ops : List StagedOp) : Nat :=
  (s.committedEntries h ops).length + (createdFields (s.record h) ops).length

/-- The seat of a commit's seat change, absent if there is none, or the result that refuses it: checks 4 and 5. -/
def State.commitSeatChoice (s : State) (h : Handle) (ops : List StagedOp) : Except ResultCode (Option SeatNo) :=
  match (s.record h).seatChange ops with
  | none => .ok none
  | some request =>
    match s.claimSeat request with
    | .error e => .error e
    | .ok n =>
      if (s.record h).target.isSome ∧ (s.record h).state ≠ .offered then .error .state else .ok (some n)

/-- The checks of a commit in their order; if all pass, the seat of its seat change (R164). -/
def State.commitChoice (s : State) (h : Handle) (ops : List StagedOp) : Except ResultCode (Option SeatNo) :=
  if removeFails (s.record h) ((s.record h).fields.map (·.id)) ops then .error .value
  else if Config.maxFields < s.copySize h ops then .error .tooMany
  else if s.freeCellCount + (s.droppedEntries h ops).length < (createdFields (s.record h) ops).length then
    .error .noCells
  else s.commitSeatChoice h ops

/-- A commit that has passed its checks is applied in one claim (R165). -/
def State.applyCommit (s : State) (h : Handle) (ops : List StagedOp) (seat : Option SeatNo) : State :=
  (((s.commitFields h ops).commitSeat h seat).modifyRecord h fun r =>
    (r.commitMode (lastMode ops)).commitPeriod (lastPeriod ops)).closeEdit

end Sys2Proof.Machine
end

