-- ==== Sys2Proof/Machine/EditCommands.lean ====
section
/-! DEFINITION. Meanings: the edit commands (R158 to R165). -/

namespace Sys2Proof.Machine

/-- BEGIN EDIT on a record of the table: EDIT_OPEN, NO_RECORD, STATE, or the context opens (R158). -/
def State.beginEdit (s : State) (h : Handle) : State :=
  if s.edit.isSome then s.refuse .editOpen
  else
    match (s.record h).state with
    | .free => s.refuse .noRecord
    | .releasing => s.refuse .state
    | .offered | .bound | .missing | .lost => { s with edit := some { handle := h, ops := [] } }.accept

/-- BEGIN_EDIT (R158). -/
def execBeginEdit (params : List Byte) (s : State) : Answer :=
  s.command params fun s =>
    match params with
    | [h] =>
      match handle? h with
      | none => s.refuse .value
      | some h => s.beginEdit h
    | _ => s.refuse .length

/-- The SET that STAGE FIELD stages, if its field id and its length are in range (R161). -/
def stagedField? (id length : Byte) (value : List Byte) : Option StagedOp :=
  if 1 ≤ length.toNat ∧ length.toNat ≤ 12 then (fieldId? id).map fun id => .set id value else none

/-- STAGE_FIELD: as many value bytes as its length names, else LENGTH (R161, R173). -/
def execStageField (params : List Byte) (s : State) : Answer :=
  s.command params fun s =>
    match params with
    | id :: length :: value =>
      if value.length = length.toNat then s.stage (stagedField? id length value) else s.refuse .length
    | _ => s.refuse .length

/-- STAGE_REMOVE (R161). -/
def execStageRemove (params : List Byte) (s : State) : Answer :=
  s.command params fun s =>
    match params with
    | [id] => s.stage ((fieldId? id).map .remove)
    | _ => s.refuse .length

/-- STAGE_MODE (R161). -/
def execStageMode (params : List Byte) (s : State) : Answer :=
  s.command params fun s =>
    match params with
    | [m] => s.stage ((mode? m).map .mode)
    | _ => s.refuse .length

/-- STAGE_PERIOD (R161). -/
def execStagePeriod (params : List Byte) (s : State) : Answer :=
  s.command params fun s =>
    match params with
    | [e] => s.stage ((exponent? e).map .period)
    | _ => s.refuse .length

/-- STAGE_SEAT (R161). -/
def execStageSeat (params : List Byte) (s : State) : Answer :=
  s.command params fun s =>
    match params with
    | [n] => s.stage ((seatRequest? n).map .seat)
    | _ => s.refuse .length

/-- COMMIT_EDIT: with no edit open NO_EDIT; refused by its checks it leaves the edit open; else it is applied whole
(R163 to R165). -/
def execCommitEdit (params : List Byte) (s : State) : Answer :=
  s.command0 params fun s =>
    match s.edit with
    | none => s.refuse .noEdit
    | some edit =>
      match s.commitChoice edit.handle edit.ops with
      | .error e => s.refuse e
      | .ok seat => (s.applyCommit edit.handle edit.ops seat).accept

/-- ABORT_EDIT: the context closes with nothing applied, or NO_EDIT (R162). -/
def execAbortEdit (params : List Byte) (s : State) : Answer :=
  s.command0 params fun s =>
    match s.edit with
    | none => s.refuse .noEdit
    | some _ => s.closeEdit.accept

end Sys2Proof.Machine
end

