-- ==== Sys2Proof/Machine/LinkCommands.lean ====
section
/-! DEFINITION. Meanings: the commands of the link engine (R35, R37, R40, R42). -/

namespace Sys2Proof.Machine

/-- The link timing that SET LINK TIMING names, if T, W and the flag are in range (R40). -/
def linkTiming? (turnLength replyWindow : Nat) (admission : Option Bool) : Option LinkTiming :=
  if 64 ≤ turnLength ∧ turnLength ≤ 1024 ∧ turnLength % 4 = 0 ∧ 8 ≤ replyWindow ∧ replyWindow ≤ turnLength / 4 then
    admission.map fun openFlag =>
      { turnLength := turnLength, replyWindow := replyWindow, admissionOpen := openFlag }
  else none

/-- A link timing that passed its checks: in use at once in STOPPED and STARTING, pending in RUNNING and STOPPING
(R40). -/
def TimeBase.setTiming (t : TimeBase) (timing : LinkTiming) : TimeBase :=
  match t.link with
  | .stopped => { t with timing := timing }
  | .starting => { t with timing := timing }
  | .running => { t with pendingTiming := some timing }
  | .stopping => { t with pendingTiming := some timing }

/-- SET_LINK_TIMING (R40). -/
def execSetLinkTiming (params : List Byte) (s : State) : Answer :=
  s.command params fun s =>
    match params with
    | [t1, t0, w1, w0, a] =>
      match linkTiming? (word16 t1 t0) (word16 w1 w0) (flag? a) with
      | none => s.refuse .value
      | some timing => { s with time := s.time.setTiming timing }.accept
    | _ => s.refuse .length

/-- START_LINK (R35): STOPPED becomes STARTING, receiver-enable is asserted and the settle countdown begins. -/
def execStartLink (params : List Byte) (s : State) : Answer :=
  s.command0 params fun s =>
    match s.time.link with
    | .stopped =>
      { s with time := { s.time with link := .starting, settle := some 0, receiverEnable := true } }.accept
    | .starting => s.accept
    | .running => s.accept
    | .stopping => s.refuse .state

/-- STOP LINK by the state of the engine (R37): a turn in flight is drained, a join window closes at once. -/
def State.stopLink (s : State) : State :=
  match s.time.link with
  | .stopped => s
  | .starting => s.halt
  | .running =>
    match s.context with
    | some (.label _) => { s with time := { s.time with link := .stopping } }
    | some (.offer _) => { s with time := { s.time with link := .stopping } }
    | some (.joinWindow _) => s.halt.setFlag .linkState
    | none => s.halt.setFlag .linkState
  | .stopping => s

/-- STOP_LINK: OK in every state (R37). -/
def execStopLink (params : List Byte) (s : State) : Answer :=
  s.command0 params fun s => s.stopLink.accept

/-- READ_TIME (R42). -/
def execReadTime (params : List Byte) (s : State) : Answer :=
  s.command0 params fun s => s.reply .ok s.timeBytes

end Sys2Proof.Machine
end

