-- ==== Sys2Proof/Machine/QualityCommands.lean ====
section
/-! DEFINITION. Meanings: the commands of the Quality Monitor (R129, R142, R144, R146). -/

namespace Sys2Proof.Machine

/-- The ranges of the quality limits (R142). -/
abbrev QualityLimits.inRange (q : QualityLimits) : Prop :=
  (2 ≤ q.missLimit ∧ q.missLimit ≤ 15) ∧ (1 ≤ q.huntLength ∧ q.huntLength ≤ 8) ∧
  (4 ≤ q.windowLength ∧ q.windowLength ≤ 64) ∧ (1 ≤ q.raiseThreshold ∧ q.raiseThreshold ≤ q.windowLength) ∧
  q.errorThreshold ≤ 63 ∧ (1 ≤ q.cleanToLower ∧ q.cleanToLower ≤ 15) ∧ q.supplyThreshold ≤ 15

/-- SET_QUALITY_LIMITS: all seven at once, or VALUE (R142). -/
def execSetQualityLimits (params : List Byte) (s : State) : Answer :=
  s.command params fun s =>
    match params with
    | [miss, hunt, window, raise, errors, clean, supply] =>
      let q : QualityLimits :=
        { missLimit := miss.toNat, huntLength := hunt.toNat, windowLength := window.toNat,
          raiseThreshold := raise.toNat, errorThreshold := errors.toNat, cleanToLower := clean.toNat,
          supplyThreshold := supply.toNat }
      if q.inRange then { s with limits := q }.accept else s.refuse .value
    | _ => s.refuse .length

/-- The record after SET LEVEL (R129). -/
def Record.setLevel (r : Record) (policy : LevelPolicy) (value : Level) : Record :=
  match policy with
  | .automatic => { r with policy := .automatic, floor := value, level := max r.level value }
  | .manual => { r with policy := .manual, level := value }

/-- SET_LEVEL (R129). -/
def execSetLevel (params : List Byte) (s : State) : Answer :=
  s.command params fun s =>
    match params with
    | [h, p, v] =>
      match handle? h, policy? p, level? v with
      | some h, some policy, some value =>
        if (s.record h).state = .free then s.refuse .noRecord
        else (s.modifyRecord h (·.setLevel policy value)).accept
      | _, _, _ => s.refuse .value
    | _ => s.refuse .length

/-- START_CENSUS: COUNTING over the period, the running counts 0, the latched results kept (R144). -/
def execStartCensus (params : List Byte) (s : State) : Answer :=
  s.command params fun s =>
    match params with
    | [hi, lo] =>
      if word16 hi lo = 0 then s.refuse .value
      else
        { s with
          census := { s.census with state := .counting, remaining := word16 hi lo, running := .zero } }.accept
    | _ => s.refuse .length

/-- READ_CENSUS (R146). -/
def execReadCensus (params : List Byte) (s : State) : Answer :=
  s.command0 params fun s => s.reply .ok s.census.bytes

end Sys2Proof.Machine
end

