-- ==== Sys2Proof/Machine/RecordCommands.lean ====
section
/-! DEFINITION. Meanings: the record commands (R23, R167 to R171). -/

namespace Sys2Proof.Machine

/-- FIND_SERIAL (R169). -/
def execFindSerial (params : List Byte) (s : State) : Answer :=
  s.command params fun s =>
    match params with
    | [a, b, c, d] =>
      if validSerial (word32 a b c d) then
        match s.findSerial (word32 a b c d) with
        | none => s.refuse .notFound
        | some h => s.reply .ok [byteOf h.val]
      else s.refuse .value
    | _ => s.refuse .length

/-- READ_RECORD (R167). -/
def execReadRecord (params : List Byte) (s : State) : Answer :=
  s.command params fun s =>
    match params with
    | [h] =>
      match handle? h with
      | none => s.refuse .value
      | some h => s.reply .ok (s.recordBytes h)
    | _ => s.refuse .length

/-- READ_FIELD: VALUE for the handle or the field id, NO_RECORD, then VALUE for an absent entry (R168). -/
def execReadField (params : List Byte) (s : State) : Answer :=
  s.command params fun s =>
    match params with
    | [h, f] =>
      match handle? h, fieldId? f with
      | some h, some id =>
        if (s.record h).state = .free then s.refuse .noRecord
        else
          match (s.record h).entry? id with
          | none => s.refuse .value
          | some e => s.reply .ok (s.fieldBytes e)
      | _, _ => s.refuse .value
    | _ => s.refuse .length

/-- READ_CHANGED: the lowest handle leaves the changed set and is returned with its record's state, or EMPTY (R23). -/
def execReadChanged (params : List Byte) (s : State) : Answer :=
  s.command0 params fun s =>
    match s.lowestChanged with
    | none => s.refuse .empty
    | some h => (s.unmarkChanged h).reply .ok [byteOf h.val, byteOf (s.record h).state.code]

/-- LIST_STATE (R169). -/
def execListState (params : List Byte) (s : State) : Answer :=
  s.command params fun s =>
    match params with
    | [state, start] =>
      match recordState? state, handle? start with
      | some state, some start =>
        let handles := s.listState state start
        s.reply .ok (byteOf handles.length :: handles.map fun h => byteOf h.val)
      | _, _ => s.refuse .value
    | _ => s.refuse .length

/-- TAKE_PRESSES: the press accumulator is returned and cleared; the baseline stays (R170). -/
def execTakePresses (params : List Byte) (s : State) : Answer :=
  s.command params fun s =>
    match params with
    | [h] =>
      match handle? h with
      | none => s.refuse .value
      | some h =>
        if (s.record h).state = .free then s.refuse .noRecord
        else (s.modifyRecord h fun r => { r with presses := 0 }).reply .ok [byteOf (s.record h).presses]
    | _ => s.refuse .length

end Sys2Proof.Machine
end

