-- ==== Sys2Proof/Machine/Resets.lean ====
section
/-! DEFINITION. Meanings: power-on and the reset line (R183). -/

namespace Sys2Proof.Machine

/-- A transaction in progress is abandoned (R172). -/
def ChipSelect.abandon (c : ChipSelect) : ChipSelect :=
  match c with
  | .high => .high
  | .low _ => .abandoned
  | .abandoned => .abandoned

/-- The part takes its initial values (R183). The inputs keep their levels, and the queue of rows is the outside
world's. -/
def State.initial (s : State) (cause : ResetCause) : State :=
  { State.reset with
    ready := s.ready
    port := { State.reset.port with resetCause := cause, select := s.port.select.abandon }
    pending := s.pending }

/-- POWER_ON: the initial values with the cause POWER; while the reset input is held low the part stays in reset, and no
power-on reset has completed (R183). -/
def execPowerOn (s : State) : Answer :=
  .next (if s.inReset then { s with poweredUp := false } else s.initial .power)

/-- RESET_LINE_ASSERT: the part is held in reset; the transaction in progress is abandoned (R172), every flag and the
mask are 0 and attention is released (R180), and receiver-enable is deasserted (R183). On an input held low already it
does the same again (log 20, the model's choice). -/
def execResetLineAssert (s : State) : Answer :=
  .next
    { s with
      inReset := true
      time := { s.time with receiverEnable := false }
      port :=
        { s.port with flags := 0, mask := 0, attention := false, select := s.port.select.abandon } }

/-- RESET_LINE_RELEASE: the initial values, with the cause LINE, or POWER if no power-on reset had completed (R183). On
an input that is not held low it has no effect (log 20, the model's choice). -/
def execResetLineRelease (s : State) : Answer :=
  .next (if s.inReset then s.initial (if s.poweredUp then .line else .power) else s)

end Sys2Proof.Machine
end

