-- ==== Sys2Proof/Machine/TimeEvents.lean ====
section
/-! DEFINITION. Meanings: the events of the Time Base, the Seat Map and the Quality Monitor that no turn context takes
(R30, R31, R36, R46, R67, R68, R145). An event taken in a state in which the block does not raise it has no effect
(log 2). -/

namespace Sys2Proof.Machine

/-- The settle countdown expires: RUNNING, LINK_STATE, and a superframe begins (R36). -/
def State.settled (s : State) (ready : Bool) : State :=
  ({ s with time := { s.time with link := .running, settle := none } }.setFlag .linkState).beginSuperframe ready

/-- SETTLE_EXPIRY: only in STARTING (R36). -/
def execSettleExpiry (ready : Bool) (s : State) : Answer :=
  s.event fun s => if s.time.link = .starting then s.settled ready else s

/-- SUPERFRAME_START: raised in RUNNING and in no other state, with no turn in flight (R31, R51). -/
def execSuperframeStart (ready : Bool) (s : State) : Answer :=
  s.event fun s => if s.time.link = .running ∧ s.context = none then s.beginSuperframe ready else s

/-- COOLING_EXPIRY: a COOLING seat whose countdown has reached 0 becomes FREE (R46). SUPERFRAME_START holds this step
for every seat (log 10). -/
def execCoolingExpiry (seat : SeatNo) (s : State) : Answer :=
  s.event fun s => s.setSeat seat (s.seatState seat).expire

/-- OFFER_TURN_TIMEOUT: the join window start falls before the OFFER is reported sent; the offer turn closes SKIPPED
(R67). -/
def execOfferTurnTimeout (s : State) : Answer :=
  s.event fun s =>
    match s.context with
    | some (.offer _) => ({ s.moveTo 0 1 with context := none }.skipTurn).endDrain
    | some (.label _) => s
    | some (.joinWindow _) => s
    | none => s

/-- The join window opens (R30, R68). -/
def State.openJoinWindow (s : State) : State :=
  { s.moveTo 0 1 with context := some (.joinWindow s.time.superframe) }

/-- JOIN_WINDOW_START: raised in RUNNING with the admission-open flag in use set (R30, R34, R68). An OFFER not yet
reported sent is SKIPPED at this point (R67). -/
def execJoinWindowStart (s : State) : Answer :=
  s.event fun s =>
    if s.time.link = .running ∧ s.time.timing.admissionOpen then
      match s.context with
      | none => s.openJoinWindow
      | some (.offer _) => ({ s with context := none }.skipTurn).openJoinWindow
      | some (.label _) => s
      | some (.joinWindow _) => s
    else s

/-- JOIN_WINDOW_END: the join window context is made absent (R68). The row leaves the place of the schedule as it stands
until the next row or tick moves it: the spec gives no place between it and the next turn start (log 3, the model's
choice). -/
def execJoinWindowEnd (s : State) : Answer :=
  s.event fun s =>
    match s.context with
    | some (.joinWindow _) => { s with context := none }
    | some (.label _) => s
    | some (.offer _) => s
    | none => s

/-- CENSUS_COMPLETION: the turns remaining are 0; the counts are latched, the census goes IDLE, CENSUS_DONE is set
(R145). The close that brings them to 0 holds this step (log 11). -/
def execCensusCompletion (s : State) : Answer := s.event State.completeCensus

end Sys2Proof.Machine
end

