-- ==== Sys2Proof/Machine/Dispatch.lean ====
section
/-! DEFINITION. The meaning of every row: one arm per constructor of Instr. -/

namespace Sys2Proof.Machine

def exec (i : Instr) (s : State) : Host.Outcome State Fault Refusal :=
  match i with
  | .chipSelectFall => Sys2Proof.Machine.execChipSelectFall s
  | .emptyTransaction => Sys2Proof.Machine.execEmptyTransaction s
  | .unknownCommand code params => Sys2Proof.Machine.execUnknownCommand code params s
  | .noOperation params => Sys2Proof.Machine.execNoOperation params s
  | .readResponse params => Sys2Proof.Machine.execReadResponse params s
  | .readStatus params => Sys2Proof.Machine.execReadStatus params s
  | .readIdent params => Sys2Proof.Machine.execReadIdent params s
  | .resetCommand params => Sys2Proof.Machine.execResetCommand params s
  | .readEvents params => Sys2Proof.Machine.execReadEvents params s
  | .clearEvents params => Sys2Proof.Machine.execClearEvents params s
  | .setEventMask params => Sys2Proof.Machine.execSetEventMask params s
  | .setLinkTiming params => Sys2Proof.Machine.execSetLinkTiming params s
  | .startLink params => Sys2Proof.Machine.execStartLink params s
  | .stopLink params => Sys2Proof.Machine.execStopLink params s
  | .readTime params => Sys2Proof.Machine.execReadTime params s
  | .setQualityLimits params => Sys2Proof.Machine.execSetQualityLimits params s
  | .setLevel params => Sys2Proof.Machine.execSetLevel params s
  | .startCensus params => Sys2Proof.Machine.execStartCensus params s
  | .readCensus params => Sys2Proof.Machine.execReadCensus params s
  | .readJoin params => Sys2Proof.Machine.execReadJoin params s
  | .dropJoin params => Sys2Proof.Machine.execDropJoin params s
  | .admitLabel params => Sys2Proof.Machine.execAdmit params s
  | .retire params => Sys2Proof.Machine.execRetire params s
  | .forget params => Sys2Proof.Machine.execForget params s
  | .findSerial params => Sys2Proof.Machine.execFindSerial params s
  | .readRecord params => Sys2Proof.Machine.execReadRecord params s
  | .readField params => Sys2Proof.Machine.execReadField params s
  | .readChanged params => Sys2Proof.Machine.execReadChanged params s
  | .listState params => Sys2Proof.Machine.execListState params s
  | .takePresses params => Sys2Proof.Machine.execTakePresses params s
  | .beginEdit params => Sys2Proof.Machine.execBeginEdit params s
  | .stageField params => Sys2Proof.Machine.execStageField params s
  | .stageRemove params => Sys2Proof.Machine.execStageRemove params s
  | .stageMode params => Sys2Proof.Machine.execStageMode params s
  | .stagePeriod params => Sys2Proof.Machine.execStagePeriod params s
  | .stageSeat params => Sys2Proof.Machine.execStageSeat params s
  | .commitEdit params => Sys2Proof.Machine.execCommitEdit params s
  | .abortEdit params => Sys2Proof.Machine.execAbortEdit params s
  | .powerOn => Sys2Proof.Machine.execPowerOn s
  | .resetLineAssert => Sys2Proof.Machine.execResetLineAssert s
  | .resetLineRelease => Sys2Proof.Machine.execResetLineRelease s
  | .settleExpiry ready => Sys2Proof.Machine.execSettleExpiry ready s
  | .superframeStart ready => Sys2Proof.Machine.execSuperframeStart ready s
  | .coolingExpiry seat => Sys2Proof.Machine.execCoolingExpiry seat s
  | .offerTurnTimeout => Sys2Proof.Machine.execOfferTurnTimeout s
  | .joinWindowStart => Sys2Proof.Machine.execJoinWindowStart s
  | .joinWindowEnd => Sys2Proof.Machine.execJoinWindowEnd s
  | .turnStart seat ready => Sys2Proof.Machine.execTurnStart seat ready s
  | .downlinkSent => Sys2Proof.Machine.execDownlinkSent s
  | .plannedOpen => Sys2Proof.Machine.execPlannedOpen s
  | .plannedClose => Sys2Proof.Machine.execPlannedClose s
  | .uplinkFrame frame => Sys2Proof.Machine.execUplinkFrame frame s
  | .censusCompletion => Sys2Proof.Machine.execCensusCompletion s

end Sys2Proof.Machine
end

