-- ==== Sys2Proof/Machine/Step.lean ====
section
/-! DEFINITION. One step of the part: the row at the front of the queue, or a tick of the reference input. -/

namespace Sys2Proof.Machine

/-- One step: take the row at the front of the queue and run it on the rest; on an empty queue, one tick (log 1). -/
def step (s : State) : Host.Outcome State Fault Refusal :=
  match s.pending with
  | [] => .next s.tickClock
  | c :: rest => exec c { s with pending := rest }

/-- The state with the row that a word spells put at the front of its queue; no word of the table spells one. -/
def State.withFetchWord (s : State) (nbits w : Nat) : State :=
  match decodeTableWord nbits w with
  | none => s
  | some c => { s with pending := c :: s.pending }

end Sys2Proof.Machine
end

