-- ==== Sys2Proof/WellFormed.lean ====
section
/-! DEFINITION. Which terms of Instr are rows that can reach the block. -/

namespace Sys2Proof

/-- What the Link Codec can hand on: where it reads a payload length it can take, the payload has that length (R186). -/
def Uplink.wf (f : Uplink) : Bool :=
  match f with
  | .undecodable => true
  | .decoded _ _ _ length payload _ _ => decide (Config.maxPayload < length.toNat) || payload.length == length.toNat

/-- A row that can reach the block: an UNKNOWN_COMMAND has a code that is not in the command table (R173), and an
uplink frame is one the Link Codec can hand on. Every other term is one. -/
def Instr.wf (i : Instr) : Bool :=
  match i with
  | .unknownCommand code _ => !commandCodes.contains code
  | .uplinkFrame frame => frame.wf
  | .chipSelectFall | .emptyTransaction | .noOperation _ | .readResponse _ | .readStatus _ | .readIdent _
  | .resetCommand _ | .readEvents _ | .clearEvents _ | .setEventMask _ | .setLinkTiming _ | .startLink _ | .stopLink _
  | .readTime _ | .setQualityLimits _ | .setLevel _ | .startCensus _ | .readCensus _ | .readJoin _ | .dropJoin _
  | .admitLabel _ | .retire _ | .forget _ | .findSerial _ | .readRecord _ | .readField _ | .readChanged _
  | .listState _ | .takePresses _ | .beginEdit _ | .stageField _ | .stageRemove _ | .stageMode _ | .stagePeriod _
  | .stageSeat _ | .commitEdit _ | .abortEdit _ | .powerOn | .resetLineAssert | .resetLineRelease | .settleExpiry _
  | .superframeStart _ | .coolingExpiry _ | .offerTurnTimeout | .joinWindowStart | .joinWindowEnd | .turnStart _ _
  | .downlinkSent | .plannedOpen | .plannedClose | .censusCompletion => true

end Sys2Proof
end

