-- ==== Sys2Proof/Safety.lean ====
section
/-! DEFINITION. The words the statements are written in: a transaction that the port can take, the answer to a command,
the parameter counts of 11.3, what a commit leaves of a field list, the cadence test, and the invariants of the
part. -/

namespace Sys2Proof.Machine

/-! ## Transactions -/

/-- A transaction is in progress that the port can take at its end: the part is not in reset, and this port status byte
was captured when the chip select fell (R172, R175). -/
abbrev State.selected (s : State) (status : Byte) : Prop := s.inReset = false ∧ s.port.select = .low status

/-- The state after a command other than READ RESPONSE whose effect on the rest of the part `s` already holds: the chip
select is high, the status byte and a 00h under each parameter byte have been clocked out, and the last result and the
response buffer are written (R172, R173). -/
def State.answered (s : State) (status : Byte) (params : List Byte) (result : ResultCode) (response : List Byte) :
    State :=
  { s with
    port :=
      { s.port with
        select := .high, dataOut := status :: List.replicate params.length 0,
        lastResult := result, response := response } }

/-- The number of parameter bytes that a command of a fixed length takes (11.3). READ RESPONSE (01h) ignores its
parameter bytes, and STAGE FIELD (41h) carries its own length (R173). -/
def parameterCount (code : Byte) : Option Nat :=
  if code ∈ ([0x00, 0x02, 0x03, 0x04, 0x05, 0x11, 0x12, 0x13, 0x1B, 0x20, 0x21, 0x33, 0x46, 0x47] : List Byte) then some 0
  else if code ∈ ([0x28, 0x29, 0x31, 0x35, 0x40, 0x42, 0x43, 0x44, 0x45] : List Byte) then some 1
  else if code ∈ ([0x06, 0x07, 0x1A, 0x32, 0x34] : List Byte) then some 2
  else if code = 0x19 then some 3
  else if code = 0x30 then some 4
  else if code = 0x10 then some 5
  else if code = 0x18 ∨ code = 0x22 then some 7
  else none

/-- The value in the cell of a field entry, absent if the cell is free (R18). -/
def State.cellOf (s : State) (e : FieldEntry) : Option (List Byte) := s.cells[e.cell.val]

/-! ## Commits -/

/-- The field id that a staged operation names, if it names one (R72). -/
def StagedOp.field? : StagedOp → Option FieldId
  | .set id _ => some id
  | .remove id => some id
  | .mode _ => none
  | .period _ => none
  | .seat _ => none

/-- The mode of a staged mode operation. -/
def StagedOp.mode? : StagedOp → Option Mode
  | .mode m => some m
  | .set _ _ => none
  | .remove _ => none
  | .period _ => none
  | .seat _ => none

/-- The exponent of a staged period operation. -/
def StagedOp.period? : StagedOp → Option Exponent
  | .period e => some e
  | .set _ _ => none
  | .remove _ => none
  | .mode _ => none
  | .seat _ => none

/-- The request of a staged seat operation. -/
def StagedOp.seat? : StagedOp → Option SeatRequest
  | .seat n => some n
  | .set _ _ => none
  | .remove _ => none
  | .mode _ => none
  | .period _ => none

/-- What the last operation of a kind holds, if the list has one of that kind (R163). -/
def lastOf {α : Type} (kind : StagedOp → Option α) (ops : List StagedOp) : Option α := ops.reverse.findSome? kind

/-- The last operation that names a field id (R72). -/
def lastNaming (id : FieldId) (ops : List StagedOp) : Option StagedOp := ops.reverse.find? fun op => op.field? = some id

/-- Whether one operation leaves a field id present in the working copy (R163): a SET makes its id present, a REMOVE
leaves it present only if the record's entry has its sent flag set. -/
def Record.presentStep (r : Record) (id : FieldId) (present : Bool) : StagedOp → Bool
  | .set i _ => present || decide (i = id)
  | .remove i => present && (decide (i ≠ id) || r.fields.any fun e => decide (e.id = id) && e.sent)
  | .mode _ => present
  | .period _ => present
  | .seat _ => present

/-- Whether a field id is present in the working copy of a record after these operations (R163). -/
def Record.presentAfter (r : Record) (ops : List StagedOp) (id : FieldId) : Bool :=
  ops.foldl (r.presentStep id) (r.fields.any fun e => decide (e.id = id))

/-- The version of a set item for a field of a record that a turn in flight holds (R73). -/
def State.versionInFlight (s : State) (h : Handle) (id : FieldId) (v : BitVec 8) : Prop :=
  ∃ turn items, s.context = some (.label turn) ∧ turn.handle = h ∧ turn.generation = (s.record h).generation ∧
    turn.work = .update items ∧
    (items.findSome? fun item => match item with
      | .set i w => if i = id then some w else none
      | .remove _ => none) = some v

/-- `v` is the first version after the desired version of an entry that is none of the confirmed version, the refused
version and the one in flight; it is one to four steps ahead (R73). -/
def State.isNextVersion (s : State) (h : Handle) (e : FieldEntry) (v : BitVec 8) : Prop :=
  let passed (w : BitVec 8) : Prop := e.confirmed = some w ∨ e.refused = some w ∨ s.versionInFlight h e.id w
  ∃ n : Nat, 1 ≤ n ∧ n ≤ 4 ∧ v = e.desired + BitVec.ofNat 8 n ∧ ¬passed v ∧
    ∀ m, 1 ≤ m → m < n → passed (e.desired + BitVec.ofNat 8 m)

/-- `t` holds at `h` the field list that a commit of these operations leaves of the one `s` holds there, each field by
the last operation that names it (R72 to R76, R163). -/
structure CommittedFields (s t : State) (h : Handle) (ops : List StagedOp) : Prop where
  ascending : ((t.record h).fields.map FieldEntry.id).Pairwise (· < ·)
  present : ∀ id, (∃ e ∈ (t.record h).fields, e.id = id) ↔ (s.record h).presentAfter ops id = true
  unnamed : ∀ e ∈ (s.record h).fields, lastNaming e.id ops = none →
    e ∈ (t.record h).fields ∧ t.cellOf e = s.cellOf e
  same : ∀ e ∈ (s.record h).fields, ∀ value, lastNaming e.id ops = some (.set e.id value) →
    e.removing = false → s.cellOf e = some value → e ∈ (t.record h).fields ∧ t.cellOf e = s.cellOf e
  written : ∀ e ∈ (s.record h).fields, ∀ value, lastNaming e.id ops = some (.set e.id value) →
    e.removing = true ∨ s.cellOf e ≠ some value →
    ∃ v, s.isNextVersion h e v ∧ { e with desired := v, removing := false } ∈ (t.record h).fields ∧
      t.cellOf e = some value
  dropped : ∀ e ∈ (s.record h).fields, lastNaming e.id ops = some (.remove e.id) → e.sent = false →
    ∀ f ∈ (t.record h).fields, f.id ≠ e.id
  marked : ∀ e ∈ (s.record h).fields, lastNaming e.id ops = some (.remove e.id) → e.sent = true →
    { e with removing := true } ∈ (t.record h).fields ∧ t.cellOf e = s.cellOf e
  created : ∀ id value, (∀ e ∈ (s.record h).fields, e.id ≠ id) → lastNaming id ops = some (.set id value) →
    ∃ c : CellNo,
      { id := id, cell := c, desired := 1, confirmed := none, refused := none, sent := false, removing := false } ∈
        (t.record h).fields ∧ t.cells[c.val] = some value ∧
      (s.cells[c.val] = none ∨
        ∃ e ∈ (s.record h).fields, e.cell = c ∧ e.sent = false ∧ lastNaming e.id ops = some (.remove e.id)) ∧
      ∀ d : CellNo, d < c → t.cells[d.val] ≠ none
  pool : ∀ c : CellNo, t.cells[c.val] ≠ none ↔ ∃ k, ∃ e ∈ (t.record k).fields, e.cell = c
  others : ∀ k, k ≠ h → ∀ e ∈ (s.record k).fields, t.cellOf e = s.cellOf e

/-! ## Cadence -/

/-- Whether a change of mode that enters or leaves DORMANT is pending (R50). -/
abbrev Record.dormancyPending (r : Record) : Prop :=
  r.modeDesired ≠ r.modeConfirmed ∧ (r.modeDesired = .dormant ∨ r.modeConfirmed = .dormant)

/-- A superframe passes the cadence test for a record (R136): no change of cadence is pending (R50), or the record is
awake in it under the present effective exponent and under the target effective exponent (R48, R49). -/
def Record.passesCadence (r : Record) (h : Handle) (superframe : BitVec 16) : Prop :=
  let exponent (mode : Mode) (period : Exponent) : Nat := if r.state = .lost ∨ mode = .dormant then 6 else period.val
  let present := exponent r.modeConfirmed r.period
  let target := exponent (if r.dormancyPending then r.modeDesired else r.modeConfirmed) (r.pendingPeriod.getD r.period)
  (r.pendingPeriod = none ∧ ¬r.dormancyPending) ∨
    (superframe.toNat % 2 ^ present = h.val % 2 ^ present ∧ superframe.toNat % 2 ^ target = h.val % 2 ^ target)

/-! ## Ranges -/

/-- A link timing that SET LINK TIMING accepts (R40). -/
abbrev LinkTiming.inRange (t : LinkTiming) : Prop :=
  64 ≤ t.turnLength ∧ t.turnLength ≤ 1024 ∧ t.turnLength % 4 = 0 ∧ 8 ≤ t.replyWindow ∧
    t.replyWindow ≤ t.turnLength / 4

/-- The quality limits are in the ranges of the table of R142. -/
abbrev QualityLimits.legal (q : QualityLimits) : Prop :=
  (2 ≤ q.missLimit ∧ q.missLimit ≤ 15) ∧ (1 ≤ q.huntLength ∧ q.huntLength ≤ 8) ∧
  (4 ≤ q.windowLength ∧ q.windowLength ≤ 64) ∧ (1 ≤ q.raiseThreshold ∧ q.raiseThreshold ≤ q.windowLength) ∧
  q.errorThreshold ≤ 63 ∧ (1 ≤ q.cleanToLower ∧ q.cleanToLower ≤ 15) ∧ q.supplyThreshold ≤ 15

/-- A staged operation in the ranges of R161. -/
def StagedOp.inRange (op : StagedOp) : Prop :=
  match op with
  | .set id value => id ≠ 0 ∧ 1 ≤ value.length ∧ value.length ≤ 12
  | .remove id => id ≠ 0
  | .mode _ => True
  | .period _ => True
  | .seat _ => True

/-- The counts of a record are in the ranges of the table of 1.1, a BOUND record has room for one more miss (R137), a
MISSING one for one more hunt miss (R139), and under the AUTOMATIC policy the level is not below the floor (R128). -/
structure Record.InRange (r : Record) : Prop where
  modeHold : r.modeHold ≤ 2
  huntMisses : r.huntMisses ≤ 8
  missCount : r.missCount ≤ 15
  windowTurns : r.windowTurns ≤ 64
  windowBad : r.windowBad ≤ r.windowTurns
  cleanWindows : r.cleanWindows ≤ 15
  attempts : r.attempts ≤ 4
  presses : r.presses ≤ 255
  bound : r.state = .bound → r.missCount ≤ 14
  missing : r.state = .missing → r.huntMisses ≤ 7
  automatic : r.policy = .automatic → r.floor ≤ r.level

/-! ## Invariants -/

/-- The port: attention shows an unmasked flag (R180), the counts stay in 16 bits (R60, R65), and in reset no output is
asserted (R183). -/
structure PortInvariant (s : State) : Prop where
  attention : s.port.attention = true ↔ s.port.flags &&& s.port.mask ≠ 0
  skipped : s.port.skipped ≤ 65535
  late : s.port.late ≤ 65535
  inReset : s.inReset = true → s.port.attention = false ∧ s.time.receiverEnable = false

/-- The link engine: what STOPPED and STARTING hold (R28, R34, R40, R51, R65), the settle countdown (R36),
receiver-enable (R33), a drain (R37), link timing (R40), and the reply window inside its turn (R32). -/
structure LinkInvariant (s : State) : Prop where
  still : s.time.link = .stopped ∨ s.time.link = .starting →
    s.time.slot = 0 ∧ s.time.position = 0 ∧ s.time.tick = 0 ∧ s.context = none ∧ s.lateRef = none ∧
      s.time.pendingTiming = none
  settle : s.time.settle.isSome = true ↔ s.time.link = .starting
  countdown : ∀ n, s.time.settle = some n → n ≤ 2048
  enable : s.inReset = false → (s.time.receiverEnable = true ↔ s.time.link ≠ .stopped)
  drain : s.time.link = .stopping → (∃ turn, s.context = some (.label turn)) ∨ ∃ turn, s.context = some (.offer turn)
  timing : s.time.timing.inRange
  pendingTiming : ∀ t, s.time.pendingTiming = some t → t.inRange
  tick : s.time.tick < s.time.timing.turnLength
  window : ∀ turn, s.context = some (.label turn) →
    3 * s.time.timing.turnLength ≤ 8 * turn.plannedOpen ∧ turn.plannedOpen < turn.plannedClose ∧
      8 * turn.plannedClose ≤ 7 * s.time.timing.turnLength + 7 ∧ turn.plannedClose < s.time.timing.turnLength

/-- The ranges of the records, of the quality limits and of the census (1.1, R128, R142, R144). -/
structure RangeInvariant (s : State) : Prop where
  records : ∀ h, (s.record h).InRange
  limits : s.limits.legal
  counting : s.census.state = .counting → 1 ≤ s.census.remaining
  idle : s.census.state = .idle → s.census.remaining = 0
  remaining : s.census.remaining ≤ 65535
  running : s.census.running.good ≤ 65535 ∧ s.census.running.damaged ≤ 65535 ∧
    s.census.running.noReply ≤ 65535 ∧ s.census.running.errorSum ≤ 65535
  latched : s.census.latched.good ≤ 65535 ∧ s.census.latched.damaged ≤ 65535 ∧
    s.census.latched.noReply ≤ 65535 ∧ s.census.latched.errorSum ≤ 65535

/-- The offer queue holds exactly the OFFERED records, each once (R91). -/
structure OfferInvariant (s : State) : Prop where
  once : s.offerQueue.Nodup
  offered : ∀ h, h ∈ s.offerQueue ↔ (s.record h).state = .offered

/-- Serials: valid and distinct among the records that are not FREE (R3); the join queue holds at most 8 entries in
range, of distinct valid serials that no such record carries (R103). -/
structure SerialInvariant (s : State) : Prop where
  valid : ∀ h, (s.record h).state ≠ .free → (s.record h).serial ≠ 0 ∧ (s.record h).serial ≠ 0xFFFFFFFF
  distinct : ∀ h k, (s.record h).state ≠ .free → (s.record k).state ≠ .free →
    (s.record h).serial = (s.record k).serial → h = k
  room : s.joinQueue.length ≤ 8
  once : (s.joinQueue.map JoinEntry.serial).Nodup
  entries : ∀ e ∈ s.joinQueue, e.serial ≠ 0 ∧ e.serial ≠ 0xFFFFFFFF ∧ 1 ≤ e.heard ∧ e.heard ≤ 255 ∧ e.corrected ≤ 63
  unknown : ∀ e ∈ s.joinQueue, ∀ h, (s.record h).state ≠ .free → (s.record h).serial ≠ e.serial

/-- The edit context: at most 8 operations in range on a record that is OFFERED, BOUND, MISSING or LOST (R157, R159,
R161). -/
def EditInvariant (s : State) : Prop :=
  ∀ edit, s.edit = some edit →
    (s.record edit.handle).state ≠ .free ∧ (s.record edit.handle).state ≠ .releasing ∧ edit.ops.length ≤ 8 ∧
      ∀ op ∈ edit.ops, op.inRange

/-- Seats and records agree (R5, R43): a seat is HELD by a handle exactly if the record there has it as seat or move
target; a record that is not FREE has a seat, a FREE one none, an OFFERED one no move target; a COOLING seat's countdown
is 1 to 128. -/
structure SeatInvariant (s : State) : Prop where
  held : ∀ n h, s.seatState n = .held h ↔ (s.record h).seat = some n ∨ (s.record h).target = some n
  present : ∀ h, (s.record h).state ≠ .free → (s.record h).seat.isSome = true
  vacant : ∀ h, (s.record h).state = .free → (s.record h).seat = none ∧ (s.record h).target = none
  offered : ∀ h, (s.record h).state = .offered → (s.record h).target = none
  apart : ∀ h n, (s.record h).seat = some n → (s.record h).target ≠ some n
  cooling : ∀ n k, s.seatState n = .cooling k → 1 ≤ k ∧ k ≤ 128

/-- Field lists: at most 6 entries in strictly ascending field id from 1, none in a FREE record, and an entry is
REMOVING only while its sent flag is set (R15, R81). -/
structure FieldInvariant (s : State) : Prop where
  room : ∀ h, (s.record h).fields.length ≤ 6
  order : ∀ h, ((s.record h).fields.map FieldEntry.id).Pairwise (· < ·)
  named : ∀ h, ∀ e ∈ (s.record h).fields, e.id ≠ 0
  vacant : ∀ h, (s.record h).state = .free → (s.record h).fields = []
  removing : ∀ h, ∀ e ∈ (s.record h).fields, e.removing = true → e.sent = true

/-- The Cell Pool and the field entries agree (R18): each entry has a cell with a value of 1 to 12 bytes, no two entries
share one, and every cell in use belongs to an entry. -/
structure CellInvariant (s : State) : Prop where
  owned : ∀ h, ∀ e ∈ (s.record h).fields, ∃ v, s.cellOf e = some v ∧ 1 ≤ v.length ∧ v.length ≤ 12
  apart : ∀ h k, ∀ e ∈ (s.record h).fields, ∀ f ∈ (s.record k).fields, e.cell = f.cell → h = k ∧ e = f
  used : ∀ (c : CellNo) (v : List Byte), s.cells[c.val] = some v → ∃ h, ∃ e ∈ (s.record h).fields, e.cell = c

end Sys2Proof.Machine
end

