-- ==== Sys2Proof/Certificates/Slice0/Obligations.lean ====
section
/-! DEFINITION. The statements for the provers. -/

open Sys2Proof Sys2Proof.Machine

/-! ## Steps -/

/-- A step with a row at the front of the queue is that row on the queue's rest (log 1, the model's choice of a
queue). -/
def Obligations.StepRunsFrontRow : Prop :=
  ∀ (c : Instr) (rest : List Instr) (s : State), s.pending = c :: rest → step s = exec c { s with pending := rest }

/-- On an empty queue a step is one tick of the reference input (log 1): nothing moves in reset or in STOPPED,
the settle countdown counts in STARTING and raises its expiry at 2048 (R36), and inside a turn the tick count
advances by one, with the points of the turn in flight raised where they are reached (R28, R52). In RUNNING with
no turn context, the last tick of a turn raises the start of what comes next: the turn start of a label slot
with the seat 3 (slot - 1) + position, the superframe start after slot 63 position 2, the join window start (if
admission is open) after slot 0 position 0 (R28 to R31). After slot 0 position 0 an OFFER in flight meets its
timeout first (R67), in STOPPING too; with admissions closed and no OFFER in flight no event is raised, and none
after slot 0 position 1, and the position advances at once (R28, R30); after slot 0 position 2 the join window
end comes before seat 0's turn start (R29, R30, R68). That the first event raised moves the place is log 3, the
model's choice. -/
def Obligations.TickAdvancesSchedule : Prop :=
  (∀ s : State, s.pending = [] →
    (s.inReset = true ∨ s.time.link = .stopped → step s = .next s) ∧
    (∀ n, s.inReset = false → s.time.link = .starting → s.time.settle = some n → n + 1 < 2048 →
      step s = .next { s with time := { s.time with settle := some (n + 1) } }) ∧
    (∀ n, s.inReset = false → s.time.link = .starting → s.time.settle = some n → 2048 ≤ n + 1 →
      step s = .next
        { s with time := { s.time with settle := some 2048 }, pending := [.settleExpiry s.ready] }) ∧
    (s.inReset = false → s.time.link = .running ∨ s.time.link = .stopping → s.time.tick + 1 < s.time.timing.turnLength →
      (∀ turn, s.context ≠ some (.label turn)) →
      step s = .next { s with time := { s.time with tick := s.time.tick + 1 } }) ∧
    (∀ turn, s.inReset = false → s.time.link = .running ∨ s.time.link = .stopping →
      s.time.tick + 1 < s.time.timing.turnLength → s.context = some (.label turn) →
      step s = .next
        { s with
          time := { s.time with tick := s.time.tick + 1 }
          pending :=
            (if s.time.tick + 1 = turn.plannedOpen then [.plannedOpen] else []) ++
            (if s.time.tick + 1 = turn.plannedClose then [.plannedClose] else []) })) ∧
  (∀ s : State, s.pending = [] → s.inReset = false → s.time.link = .running → s.context = none →
    s.time.timing.turnLength ≤ s.time.tick + 1 →
    (∀ n : SeatNo, 3 * s.time.slot.val + s.time.position.val + 1 = n.val + 3 →
      step s = .next { s with pending := [.turnStart n s.ready] }) ∧
    (s.time.slot = 63 → s.time.position = 2 → step s = .next { s with pending := [.superframeStart s.ready] }) ∧
    (s.time.slot = 0 → s.time.position = 0 → s.time.timing.admissionOpen = true →
      step s = .next { s with pending := [.joinWindowStart] }) ∧
    (s.time.slot = 0 → s.time.position = 0 → s.time.timing.admissionOpen = false →
      step s = .next { s with time := { s.time with position := 1, tick := 0 } })) ∧
  (∀ s : State, s.pending = [] → s.inReset = false → s.time.timing.turnLength ≤ s.time.tick + 1 → s.time.slot = 0 →
    (∀ turn, s.time.link = .running → s.time.position = 0 → s.context = some (.offer turn) →
      step s = .next
        { s with
          pending := .offerTurnTimeout :: if s.time.timing.admissionOpen then [.joinWindowStart] else [] }) ∧
    (∀ turn, s.time.link = .stopping → s.time.position = 0 → s.context = some (.offer turn) →
      step s = .next { s with pending := [.offerTurnTimeout] }) ∧
    (s.time.link = .running → s.time.position = 1 → s.context = none ∨ (∃ n, s.context = some (.joinWindow n)) →
      step s = .next { s with time := { s.time with position := 2, tick := 0 } }) ∧
    (∀ n, s.time.link = .running → s.time.position = 2 → s.context = some (.joinWindow n) →
      step s = .next { s with pending := [.joinWindowEnd, .turnStart 0 s.ready] }))

/-! ## Transactions -/

/-- CHIP_SELECT_FALL captures the port status byte: last result in bits 3:0, link engine state in 5:4, edit open
in bit 6, attention in bit 7 (R172, R175). In reset no transaction begins (R183). EMPTY_TRANSACTION: the chip
select rises and nothing else changes (R172). A command row with no fall recorded is a whole transaction: its
fall captures the status byte as it stands (log 5, the model's choice). The data output is driven after a fall
out of reset, and high-impedance after the rise that ends any transaction and from the fall of the reset line
(R172; the drive is computed, log 19). The engine's states are 0 STOPPED, 1 STARTING, 2 RUNNING, 3 STOPPING
(R175), and the result codes are 0 to 15 in the order of R176. -/
def Obligations.ChipSelectCapturesStatus : Prop :=
  (∀ s : State,
    (s.inReset = false →
      exec .chipSelectFall s = .next
        { s with
          port :=
            { s.port with
              select := .low
                (BitVec.ofBool s.port.attention ++ BitVec.ofBool s.edit.isSome ++ BitVec.ofNat 2 s.time.link.code ++
                  BitVec.ofNat 4 s.port.lastResult.code) } }) ∧
    (s.inReset = true → exec .chipSelectFall s = .next { s with port := { s.port with select := .abandoned } })) ∧
  (∀ s : State, exec .emptyTransaction s = .next { s with port := { s.port with select := .high } }) ∧
  (∀ (s : State) (bytes : List Byte), s.inReset = false → s.port.select = .high →
    exec (decodeTransaction bytes) s
      = exec (decodeTransaction bytes) { s with port := { s.port with select := .low s.statusByte } }) ∧
  (∀ s : State,
    (∃ t, exec .chipSelectFall s = .next t ∧ t.dataOutDriven = !s.inReset) ∧
    (∀ bytes : List Byte, ∃ t, exec (decodeTransaction bytes) s = .next t ∧ t.dataOutDriven = false) ∧
    ∃ t, exec .resetLineAssert s = .next t ∧ t.dataOutDriven = false) ∧
  ([.stopped, .starting, .running, .stopping] : List LinkState).map LinkState.code = [0, 1, 2, 3] ∧
  ([.ok, .unknown, .length, .value, .state, .noRecord, .tableFull, .duplicate, .noSeat, .seatTaken, .noCells,
      .editOpen, .noEdit, .notFound, .empty, .tooMany] : List ResultCode).map ResultCode.code =
    [0, 1, 2, 3, 4, 5, 6, 7, 8, 9, 10, 11, 12, 13, 14, 15]

/-- A transaction with a code outside the command table is an UNKNOWN_COMMAND and is refused with UNKNOWN,
whatever its parameter bytes (R173). A known command with a wrong number of parameter bytes is refused with
LENGTH and changes nothing else; STAGE FIELD takes 2 bytes more than its second byte says (R173, R187). -/
def Obligations.UnknownCodeAndWrongLengthRefused : Prop :=
  (∀ (s : State) (status code : Byte) (params : List Byte), code ∉ commandCodes → s.selected status →
    decodeTransaction (code :: params) = .unknownCommand code params ∧
    exec (.unknownCommand code params) s = .next (s.answered status params .unknown [])) ∧
  (∀ (s : State) (status : Byte), s.selected status →
    (∀ (code : Byte) (params : List Byte) (n : Nat), parameterCount code = some n → params.length ≠ n →
      exec (decodeTransaction (code :: params)) s = .next (s.answered status params .length [])) ∧
    (∀ params : List Byte, params.length < 2 →
      exec (.stageField params) s = .next (s.answered status params .length [])) ∧
    (∀ (id length : Byte) (value : List Byte), value.length ≠ length.toNat →
      exec (.stageField (id :: length :: value)) s
        = .next (s.answered status (id :: length :: value) .length [])))

/-- In reset, and at the end of a transaction that a reset abandoned, no transaction is taken: only the chip
select rises (R172, R183). That in reset no event of the Time Base, of the turn, of the Seat Map, of the census or
from the front end is taken is the model's choice (log 12, DESIGN CHOICE); of these R183 says it only of the frames. -/
def Obligations.NothingTakenInReset : Prop :=
  (∀ (s : State) (bytes : List Byte), s.inReset = true ∨ s.port.select = .abandoned →
    exec (decodeTransaction bytes) s = .next { s with port := { s.port with select := .high } }) ∧
  (∀ (s : State) (row : Instr), s.inReset = true →
    (∃ r, row = .settleExpiry r) ∨ (∃ r, row = .superframeStart r) ∨ (∃ n, row = .coolingExpiry n) ∨
      (∃ n r, row = .turnStart n r) ∨ (∃ f, row = .uplinkFrame f) ∨
      row ∈ ([.offerTurnTimeout, .joinWindowStart, .joinWindowEnd, .downlinkSent, .plannedOpen, .plannedClose,
        .censusCompletion] : List Instr) →
    exec row s = .next s)

/-- READ_RESPONSE streams the length, the buffer's bytes and then 00h under its parameter bytes, and changes
neither the buffer nor the last result (R174). -/
def Obligations.ReadResponseStreamsBuffer : Prop :=
  ∀ (s : State) (status : Byte) (params : List Byte), s.selected status →
    exec (.readResponse params) s = .next
      { s with
        port :=
          { s.port with
            select := .high
            dataOut :=
              status :: ((BitVec.ofNat 8 s.port.response.length :: s.port.response) ++
                List.replicate params.length 0).take params.length } }

/-- NO_OPERATION answers OK with length 0 (R177), and READ_IDENT the part code 0160h, revision 1, 160 records,
189 seats and 512 cells, in every state (R182). READ_STATUS answers its 15 bytes, all of one instant, and
changes none of the values (R181). READ_EVENTS answers the flag word and the mask word and clears no flag
(R178), READ_TIME the superframe number, the slot, the turn position and the link engine state (R42),
READ_CENSUS the state, the turns remaining and the four latched results (R146). The reset causes are 0 POWER,
1 LINE, 2 COMMAND, and the census states 0 IDLE, 1 COUNTING (11.3). -/
def Obligations.PortReadsReportValues : Prop :=
  (([.power, .line, .command] : List ResetCause).map ResetCause.code = [0, 1, 2] ∧
    ([.idle, .counting] : List CensusState).map CensusState.code = [0, 1]) ∧
  ∀ (s : State) (status : Byte), s.selected status →
    (exec (.noOperation []) s = .next (s.answered status [] .ok []) ∧
    exec (.readIdent []) s = .next (s.answered status [] .ok [0x01, 0x60, 1, 160, 189, 0x02, 0x00])) ∧
    (exec (.readStatus []) s = .next (s.answered status [] .ok
      ([BitVec.ofNat 8 s.time.link.code] ++ be16 s.time.superframe.toNat ++
        [BitVec.ofNat 8 (s.records.toList.countP fun r => decide (r.state = .free)),
          BitVec.ofNat 8 (s.seats.toList.countP fun v => decide (v = .free)),
          BitVec.ofNat 8 (s.seats.toList.countP fun v => match v with
            | .cooling _ => true | .free => false | .held _ => false)] ++
        be16 (s.cells.toList.countP Option.isNone) ++
        [BitVec.ofNat 8 s.joinQueue.length, BitVec.ofNat 8 s.offerQueue.length] ++
        be16 s.port.skipped ++ be16 s.port.late ++ [BitVec.ofNat 8 s.port.resetCause.code]))) ∧
    (exec (.readEvents []) s
      = .next (s.answered status [] .ok (be16 s.port.flags.toNat ++ be16 s.port.mask.toNat)) ∧
    exec (.readTime []) s
      = .next (s.answered status [] .ok
          (be16 s.time.superframe.toNat ++
            [BitVec.ofNat 8 s.time.slot.val, BitVec.ofNat 8 s.time.position.val, BitVec.ofNat 8 s.time.link.code])) ∧
    exec (.readCensus []) s
      = .next (s.answered status [] .ok
          ([BitVec.ofNat 8 s.census.state.code] ++ be16 s.census.remaining ++ be16 s.census.latched.good ++
            be16 s.census.latched.damaged ++ be16 s.census.latched.noReply ++ be16 s.census.latched.errorSum)))

/-- CLEAR_EVENTS clears the flags whose bits are 1 in its word and leaves the mask; SET_EVENT_MASK makes its
word the mask and leaves the flags; bits 9 to 15 are dropped, and attention follows in the same step (R179,
R180). Each flag is its bit of the word, 0 JOIN_HEARD to 8 TURN_SKIPPED, and a cause sets that bit alone, with
attention following (R178, R180). -/
def Obligations.EventCommandsMoveAttention : Prop :=
  (∀ s : State, ∀ f ∈ ([(.joinHeard, 0), (.joinDropped, 1), (.changed, 2), (.lost, 3), (.released, 4), (.refused, 5),
      (.censusDone, 6), (.linkState, 7), (.turnSkipped, 8)] : List (EventFlag × Nat)),
    s.flag f.1 = s.port.flags.getLsbD f.2 ∧
    s.setFlag f.1 =
      { s with
        port :=
          { s.port with
            flags := s.port.flags ||| BitVec.ofNat 9 (2 ^ f.2)
            attention := (s.port.flags ||| BitVec.ofNat 9 (2 ^ f.2)) &&& s.port.mask != 0 } }) ∧
  ∀ (s : State) (status hi lo : Byte), s.selected status →
    let word : BitVec 9 := (hi ++ lo).setWidth 9
    exec (.clearEvents [hi, lo]) s
      = .next ({ s with
          port :=
            { s.port with
              flags := s.port.flags &&& ~~~word
              attention := s.port.flags &&& ~~~word &&& s.port.mask != 0 } }.answered status [hi, lo] .ok []) ∧
    exec (.setEventMask [hi, lo]) s
      = .next ({ s with
          port :=
            { s.port with
              mask := word
              attention := s.port.flags &&& word != 0 } }.answered status [hi, lo] .ok [])

/-- RESET: the link is STOPPED at slot 0, position 0, tick 0 with receiver-enable deasserted and pending timing
taken into use; no turn context, no late reference, no join queue entry, no edit; the census IDLE with zeros;
flags, mask, response and counts cleared, attention released, last result OK, cause COMMAND. Everything else is
kept (R39, R70, R184). -/
def Obligations.ResetCommandKeepsPopulation : Prop :=
  ∀ (s : State) (status : Byte), s.selected status →
    exec (.resetCommand []) s = .next
      { s with
        time :=
          { s.time with
            link := .stopped, slot := 0, position := 0, tick := 0, settle := none, receiverEnable := false,
            timing := s.time.pendingTiming.getD s.time.timing, pendingTiming := none }
        context := none
        lateRef := none
        joinQueue := []
        edit := none
        census :=
          { state := .idle, remaining := 0,
            running := { good := 0, damaged := 0, noReply := 0, errorSum := 0 },
            latched := { good := 0, damaged := 0, noReply := 0, errorSum := 0 } }
        port :=
          { flags := 0, mask := 0, attention := false, lastResult := .ok, response := [], skipped := 0, late := 0,
            resetCause := .command, select := .high, dataOut := [status] } }

/-! ## The link engine -/

/-- SET_LINK_TIMING: refused with VALUE out of range, else in use at once in STOPPED and STARTING, pending in
RUNNING and STOPPING (R40). -/
def Obligations.SetLinkTimingByState : Prop :=
  ∀ (s : State) (status t1 t0 w1 w0 a : Byte), s.selected status →
    let t := 256 * t1.toNat + t0.toNat
    let w := 256 * w1.toNat + w0.toNat
    let legal := 64 ≤ t ∧ t ≤ 1024 ∧ t % 4 = 0 ∧ 8 ≤ w ∧ w ≤ t / 4 ∧ (a = 0 ∨ a = 1)
    let triple : LinkTiming := { turnLength := t, replyWindow := w, admissionOpen := a == 1 }
    (¬legal → exec (.setLinkTiming [t1, t0, w1, w0, a]) s
      = .next (s.answered status [t1, t0, w1, w0, a] .value [])) ∧
    (legal → s.time.link = .stopped ∨ s.time.link = .starting → exec (.setLinkTiming [t1, t0, w1, w0, a]) s
      = .next ({ s with time := { s.time with timing := triple } }.answered status [t1, t0, w1, w0, a] .ok [])) ∧
    (legal → s.time.link = .running ∨ s.time.link = .stopping → exec (.setLinkTiming [t1, t0, w1, w0, a]) s
      = .next ({ s with time := { s.time with pendingTiming := some triple } }.answered status [t1, t0, w1, w0, a]
          .ok []))

/-- START_LINK by the state of the engine (R35). -/
def Obligations.StartLinkByState : Prop :=
  ∀ (s : State) (status : Byte), s.selected status →
    (s.time.link = .stopped → exec (.startLink []) s
      = .next ({ s with time := { s.time with link := .starting, receiverEnable := true, settle := some 0 } }.answered
          status [] .ok [])) ∧
    (s.time.link = .starting ∨ s.time.link = .running → exec (.startLink []) s = .next (s.answered status [] .ok [])) ∧
    (s.time.link = .stopping → exec (.startLink []) s = .next (s.answered status [] .state []))

/-- STOP_LINK by the state of the engine: no effect in STOPPED and STOPPING; from STARTING, and from RUNNING
with no turn in flight (a join window is none), STOPPED at once, with LINK_STATE only from RUNNING; a label or
an offer turn in flight is drained in STOPPING (R37, R38). The end of a drain: a LABEL or PROBE turn that closes
GOOD, NONE or DAMAGED in STOPPING brings the engine to STOPPED at slot 0, position 0, tick 0 with receiver-enable
deasserted and pending timing in use, keeps the superframe number, sets LINK_STATE and leaves no late reference,
and its outcome is processed in full: records, changed set, seats, cells, queues and census end as the same
close leaves them in RUNNING (R34, R37, R38, R65, R70; beside R31 and R125 the model's reading, log 18). -/
def Obligations.StopLinkDrainsTurn : Prop :=
  (∀ (s : State) (status : Byte), s.selected status →
    let stopped : State :=
      { s with
        time :=
          { s.time with
            link := .stopped, slot := 0, position := 0, tick := 0, settle := none, receiverEnable := false,
            timing := s.time.pendingTiming.getD s.time.timing, pendingTiming := none }
        context := none
        lateRef := none }
    (s.time.link = .stopped ∨ s.time.link = .stopping →
      exec (.stopLink []) s = .next (s.answered status [] .ok [])) ∧
    (s.time.link = .starting → exec (.stopLink []) s = .next (stopped.answered status [] .ok [])) ∧
    (s.time.link = .running → s.context = none ∨ (∃ n, s.context = some (.joinWindow n)) →
      exec (.stopLink []) s = .next ((stopped.setFlag .linkState).answered status [] .ok [])) ∧
    (s.time.link = .running → (∃ turn, s.context = some (.label turn)) ∨ (∃ turn, s.context = some (.offer turn)) →
      exec (.stopLink []) s = .next ({ s with time := { s.time with link := .stopping } }.answered status [] .ok []))) ∧
  (∀ (s : State) (turn : LabelTurn) (row : Instr), s.inReset = false → s.time.link = .stopping →
    s.context = some (.label turn) → turn.phase = .listening →
    row = .plannedClose ∨ (∃ frame, row = .uplinkFrame frame ∧ (classifyUplink frame = .damaged ∨
      ∃ ack corrected, classifyUplink frame = .ack (byteOf (turn.handle.val + 1)) turn.tag ack corrected)) →
    ∃ t u, exec row s = .next t ∧ exec row { s with time := { s.time with link := .running } } = .next u ∧
      t.records = u.records ∧ t.changed = u.changed ∧ t.seats = u.seats ∧ t.cells = u.cells ∧
      t.offerQueue = u.offerQueue ∧ t.joinQueue = u.joinQueue ∧ t.census = u.census ∧ t.edit = u.edit ∧
      t.context = none ∧ t.lateRef = none ∧ t.flag .linkState = true ∧
      t.time.link = .stopped ∧ t.time.superframe = s.time.superframe ∧ t.time.slot = 0 ∧ t.time.position = 0 ∧
      t.time.tick = 0 ∧ t.time.receiverEnable = false ∧ t.time.timing = s.time.pendingTiming.getD s.time.timing ∧
      t.time.pendingTiming = none)

/-! ## Link quality -/

/-- SET_QUALITY_LIMITS sets all seven limits at once, or none with VALUE; after power-on they hold their
defaults (R142). START_CENSUS: VALUE on a period of 0, else COUNTING over the period with running counts 0 and
the latched results kept, from either state (R144). -/
def Obligations.LimitsAndCensusCommands : Prop :=
  ((State.reset.limits = ⟨4, 2, 16, 3, 8, 4, 3⟩) ∧
  ∀ (s : State) (status m h w r e c p : Byte), s.selected status →
    let legal := 2 ≤ m.toNat ∧ m.toNat ≤ 15 ∧ 1 ≤ h.toNat ∧ h.toNat ≤ 8 ∧ 4 ≤ w.toNat ∧ w.toNat ≤ 64 ∧
      1 ≤ r.toNat ∧ r.toNat ≤ w.toNat ∧ e.toNat ≤ 63 ∧ 1 ≤ c.toNat ∧ c.toNat ≤ 15 ∧ p.toNat ≤ 15
    (legal → exec (.setQualityLimits [m, h, w, r, e, c, p]) s
      = .next ({ s with
          limits :=
            { missLimit := m.toNat, huntLength := h.toNat, windowLength := w.toNat, raiseThreshold := r.toNat,
              errorThreshold := e.toNat, cleanToLower := c.toNat, supplyThreshold := p.toNat } }.answered
          status [m, h, w, r, e, c, p] .ok [])) ∧
    (¬legal → exec (.setQualityLimits [m, h, w, r, e, c, p]) s
      = .next (s.answered status [m, h, w, r, e, c, p] .value []))) ∧
  (∀ (s : State) (status hi lo : Byte), s.selected status →
    let period := 256 * hi.toNat + lo.toNat
    (period = 0 → exec (.startCensus [hi, lo]) s = .next (s.answered status [hi, lo] .value [])) ∧
    (period ≠ 0 → exec (.startCensus [hi, lo]) s
      = .next ({ s with
          census :=
            { state := .counting, remaining := period,
              running := { good := 0, damaged := 0, noReply := 0, errorSum := 0 },
              latched := s.census.latched } }.answered status [hi, lo] .ok [])))

/-- SET_LEVEL: VALUE out of range, NO_RECORD on a FREE record; AUTOMATIC sets the floor and lifts the level to
it, MANUAL sets the level and keeps the floor (R129). -/
def Obligations.SetLevelByPolicy : Prop :=
  ∀ (s : State) (status : Byte), s.selected status →
    (∀ h p v : Byte, 160 ≤ h.toNat ∨ 2 ≤ p.toNat ∨ 4 ≤ v.toNat →
      exec (.setLevel [h, p, v]) s = .next (s.answered status [h, p, v] .value [])) ∧
    (∀ (h : Handle) (p : Byte) (v : Level), p = 0 ∨ p = 1 → (s.record h).state = .free →
      exec (.setLevel [byteOf h.val, p, byteOf v.val]) s
        = .next (s.answered status [byteOf h.val, p, byteOf v.val] .noRecord [])) ∧
    (∀ (h : Handle) (v : Level), (s.record h).state ≠ .free →
      exec (.setLevel [byteOf h.val, 0, byteOf v.val]) s
        = .next ((s.setRecord h
            { s.record h with policy := .automatic, floor := v, level := max (s.record h).level v }).answered
            status [byteOf h.val, 0, byteOf v.val] .ok [])) ∧
    (∀ (h : Handle) (v : Level), (s.record h).state ≠ .free →
      exec (.setLevel [byteOf h.val, 1, byteOf v.val]) s
        = .next ((s.setRecord h { s.record h with policy := .manual, level := v }).answered status
            [byteOf h.val, 1, byteOf v.val] .ok []))

/-! ## Admission and retirement -/

/-- READ_JOIN returns the head entry and changes nothing, DROP_JOIN removes it; both answer EMPTY on an empty
queue (R105). -/
def Obligations.JoinQueueHeadCommands : Prop :=
  ∀ (s : State) (status : Byte), s.selected status →
    (s.joinQueue = [] →
      exec (.readJoin []) s = .next (s.answered status [] .empty []) ∧
      exec (.dropJoin []) s = .next (s.answered status [] .empty [])) ∧
    (∀ e rest, s.joinQueue = e :: rest →
      exec (.readJoin []) s
        = .next (s.answered status [] .ok
            (be32 e.serial ++ [BitVec.ofNat 8 e.supply.toNat, BitVec.ofNat 8 e.heard] ++ be16 e.lastHeard.toNat ++
              [BitVec.ofNat 8 e.corrected])) ∧
      exec (.dropJoin []) s = .next ({ s with joinQueue := rest }.answered status [] .ok []))

/-- The checks of ADMIT in their order: VALUE, DUPLICATE, TABLE_FULL, NO_SEAT, SEAT_TAKEN. A refused ADMIT
changes no record, seat, cell or queue (R106). -/
def Obligations.AdmitChecksInOrder : Prop :=
  ∀ (s : State) (status a b c d period seat level : Byte), s.selected status →
    let serial := a ++ b ++ c ++ d
    let refused (result : ResultCode) : Prop :=
      exec (.admitLabel [a, b, c, d, period, seat, level]) s
        = .next (s.answered status [a, b, c, d, period, seat, level] result [])
    let bad : Prop := serial = 0 ∨ serial = 0xFFFFFFFF ∨ 6 < period.toNat ∨ 3 < level.toNat ∨
      (189 ≤ seat.toNat ∧ seat.toNat ≤ 254)
    let carried : Prop := ∃ h, (s.record h).state ≠ .free ∧ (s.record h).serial = serial
    let full : Prop := ∀ h, (s.record h).state ≠ .free
    (bad → refused .value) ∧
    (¬bad → carried → refused .duplicate) ∧
    (¬bad → ¬carried → full → refused .tableFull) ∧
    (¬bad → ¬carried → ¬full → seat = 0xFF → (∀ n, s.seatState n ≠ .free) → refused .noSeat) ∧
    (¬bad → ¬carried → ¬full → ∀ n : SeatNo, n.val = seat.toNat → s.seatState n ≠ .free → refused .seatTaken)

/-- An ADMIT that passes its checks takes the lowest FREE record and the seat named, or the lowest FREE seat for
FFh: the record is set up as OFFERED with the next generation, the seat is HELD, the handle goes to the tail of
the offer queue, the serial leaves the join queue, and nothing else changes but the port (R11, R107). -/
def Obligations.AdmitTakesLowestRecord : Prop :=
  ∀ (s : State) (status a b c d seat : Byte) (period : Exponent) (level : Level) (h : Handle) (n : SeatNo),
    s.selected status →
    let serial := a ++ b ++ c ++ d
    serial ≠ 0 → serial ≠ 0xFFFFFFFF → (∀ k, (s.record k).state ≠ .free → (s.record k).serial ≠ serial) →
    (s.record h).state = .free → (∀ k, k < h → (s.record k).state ≠ .free) → s.seatState n = .free →
    seat = byteOf n.val ∨ (seat = 0xFF ∧ ∀ m, m < n → s.seatState m ≠ .free) →
    exec (.admitLabel [a, b, c, d, byteOf period.val, seat, byteOf level.val]) s
      = .next ({ s with
          records := s.records.set h.val
            { state := .offered, generation := (s.record h).generation + 1, serial := serial, outcome := .none,
              seat := some n, target := none, period := period, pendingPeriod := none, modeDesired := .showing,
              modeConfirmed := .showing, modeHold := 0, level := level, floor := 0, policy := .automatic,
              offset := .centered, huntCandidate := .centered, huntMisses := 0, missCount := 0, windowTurns := 0,
              windowBad := 0, cleanWindows := 0, attempts := 0, lastHeard := none, supply := none, lowSupply := false,
              pressBaseline := none, presses := 0, nextTag := 0, fields := [] }
          seats := s.seats.set n.val (.held h)
          offerQueue := s.offerQueue ++ [h]
          joinQueue := s.joinQueue.filter fun e => e.serial ≠ serial }.answered status
          [a, b, c, d, byteOf period.val, seat, byteOf level.val] .ok [byteOf h.val])

/-- RETIRE by the state of its record: the refusals in their order, no effect on a RELEASING record, an OFFERED
record vacated as UNANSWERED with its seat COOLING 128, and a BOUND, MISSING or LOST record made RELEASING with
attempt count 0 and every other part kept (R147 to R149). FORGET: VALUE, NO_RECORD, EDIT_OPEN in this order;
else the record is vacated as FORGOTTEN with its seats COOLING 128 and its handle leaves the changed set; no
event flag is set (R24, R155). -/
def Obligations.RetireAndForgetByState : Prop :=
  ∀ (s : State) (status : Byte), s.selected status →
    ((∀ b : Byte, 160 ≤ b.toNat → exec (.retire [b]) s = .next (s.answered status [b] .value [])) ∧
    ∀ h : Handle,
      let b := byteOf h.val
      let open? : Prop := ∃ edit, s.edit = some edit ∧ edit.handle = h
      ((s.record h).state = .free → exec (.retire [b]) s = .next (s.answered status [b] .noRecord [])) ∧
      ((s.record h).state ≠ .free → open? → exec (.retire [b]) s = .next (s.answered status [b] .editOpen [])) ∧
      ((s.record h).state = .releasing → ¬open? → exec (.retire [b]) s = .next (s.answered status [b] .ok [])) ∧
      ((s.record h).state = .offered → ¬open? →
        exec (.retire [b]) s = .next ((s.vacate h .unanswered (.cooling 128)).answered status [b] .ok [])) ∧
      ((s.record h).state = .bound ∨ (s.record h).state = .missing ∨ (s.record h).state = .lost → ¬open? →
        exec (.retire [b]) s
          = .next ((s.setRecord h { s.record h with state := .releasing, attempts := 0 }).answered status [b] .ok []))) ∧
    ((∀ b : Byte, 160 ≤ b.toNat → exec (.forget [b]) s = .next (s.answered status [b] .value [])) ∧
    ∀ h : Handle,
      let b := byteOf h.val
      let open? : Prop := ∃ edit, s.edit = some edit ∧ edit.handle = h
      ((s.record h).state = .free → exec (.forget [b]) s = .next (s.answered status [b] .noRecord [])) ∧
      ((s.record h).state ≠ .free → open? → exec (.forget [b]) s = .next (s.answered status [b] .editOpen [])) ∧
      ((s.record h).state ≠ .free → ¬open? →
        exec (.forget [b]) s
          = .next (State.answered
              { s.vacate h .forgotten (.cooling 128) with changed := s.changed.set h.val false } status [b] .ok [])))

/-- Vacating a record, the operation that RETIRE, FORGET and the completions of a release share: the record is
FREE with its generation and serial kept and every other part at its value after power-on, its seat and move
target take the state the cause gives, the cells of its entries are free, its handle is out of the offer queue,
and every other record, seat, cell and part of the machine is as before (R12). -/
def Obligations.VacateClearsRecord : Prop :=
  ∀ (s : State) (h : Handle) (outcome : ReleaseOutcome) (left : Seat),
    let r := s.record h
    let t := s.vacate h outcome left
    t.record h =
      { state := .free, generation := r.generation, serial := r.serial, outcome := outcome, seat := none, target := none,
        period := 0, pendingPeriod := none, modeDesired := .showing, modeConfirmed := .showing, modeHold := 0, level := 0,
        floor := 0, policy := .automatic, offset := .centered, huntCandidate := .centered, huntMisses := 0,
        missCount := 0, windowTurns := 0, windowBad := 0, cleanWindows := 0, attempts := 0, lastHeard := none,
        supply := none, lowSupply := false, pressBaseline := none, presses := 0, nextTag := 0, fields := [] } ∧
    (∀ k, k ≠ h → t.record k = s.record k) ∧
    (∀ n, t.seatState n = if r.seat = some n ∨ r.target = some n then left else s.seatState n) ∧
    (∀ c : CellNo, t.cells[c.val] = if ∃ e ∈ r.fields, e.cell = c then none else s.cells[c.val]) ∧
    t.offerQueue = s.offerQueue.filter (· ≠ h) ∧
    t = { s with records := t.records, seats := t.seats, cells := t.cells, offerQueue := t.offerQueue }

/-! ## Record commands -/

/-- FIND_SERIAL: VALUE for the two invalid serials, the handle of the one record that is not FREE and carries
the serial, else NOT_FOUND (R169; serials of records that are not FREE are distinct by R3). LIST_STATE returns a
count and that many handles in ascending order: the lowest 16 at most, at or above the start handle, whose
records are in the state; VALUE for a state code above 5 or a start above 159 (R169). -/
def Obligations.SerialAndStateSearches : Prop :=
  (∀ (s : State) (status a b c d : Byte), s.selected status →
    let serial := a ++ b ++ c ++ d
    (serial = 0 ∨ serial = 0xFFFFFFFF →
      exec (.findSerial [a, b, c, d]) s = .next (s.answered status [a, b, c, d] .value [])) ∧
    (serial ≠ 0 → serial ≠ 0xFFFFFFFF → (∀ h, (s.record h).state ≠ .free → (s.record h).serial ≠ serial) →
      exec (.findSerial [a, b, c, d]) s = .next (s.answered status [a, b, c, d] .notFound [])) ∧
    (serial ≠ 0 → serial ≠ 0xFFFFFFFF → ∀ h, (s.record h).state ≠ .free → (s.record h).serial = serial →
      (∀ k, (s.record k).state ≠ .free → (s.record k).serial = serial → k = h) →
      exec (.findSerial [a, b, c, d]) s = .next (s.answered status [a, b, c, d] .ok [byteOf h.val]))) ∧
  (∀ (s : State) (status : Byte), s.selected status →
    (∀ b c : Byte, 6 ≤ b.toNat ∨ 160 ≤ c.toNat →
      exec (.listState [b, c]) s = .next (s.answered status [b, c] .value [])) ∧
    ∀ (state : RecordState) (start : Handle), ∃ handles : List Handle,
      exec (.listState [BitVec.ofNat 8 state.code, byteOf start.val]) s
        = .next (s.answered status [BitVec.ofNat 8 state.code, byteOf start.val] .ok
            (BitVec.ofNat 8 handles.length :: handles.map fun h => byteOf h.val)) ∧
      handles.Pairwise (· < ·) ∧ handles.length ≤ 16 ∧
      (∀ h ∈ handles, start ≤ h ∧ (s.record h).state = state) ∧
      (∀ h, start ≤ h → (s.record h).state = state → h ∉ handles →
        handles.length = 16 ∧ ∀ k ∈ handles, k < h))

/-- READ_RECORD: VALUE above 159; 6 bytes for a FREE record; for any other 25 bytes in the places of the table
of R188 and then 5 bytes for each entry (R167, R188). READ_FIELD: VALUE for the handle or the field id, then
NO_RECORD, then VALUE for an entry that is absent; else the entry and the value of its cell (R168, R188). The
status of an entry is 3 REMOVING, 2 REFUSED, 1 IN SYNC or 0 PENDING, the first whose condition holds (R17). The
codes of states, modes, offsets, policies and outcomes are those of 11.3. -/
def Obligations.RecordReadLayouts : Prop :=
  (([.free, .offered, .bound, .missing, .lost, .releasing] : List RecordState).map RecordState.code =
      [0, 1, 2, 3, 4, 5] ∧
    ([.showing, .blank, .dormant] : List Mode).map Mode.code = [0, 1, 2] ∧
    ([.centered, .late, .early, .wide] : List WindowOffset).map WindowOffset.code = [0, 1, 2, 3] ∧
    ([.automatic, .manual] : List LevelPolicy).map LevelPolicy.code = [0, 1] ∧
    ([.none, .acknowledged, .unanswered, .forgotten] : List ReleaseOutcome).map ReleaseOutcome.code = [0, 1, 2, 3]) ∧
  ∀ (s : State) (status : Byte), s.selected status →
    ((∀ b : Byte, 160 ≤ b.toNat → exec (.readRecord [b]) s = .next (s.answered status [b] .value [])) ∧
    ∀ h : Handle,
      let r := s.record h
      let orFF (n : Option Nat) : Byte := match n with | none => 0xFF | some n => BitVec.ofNat 8 n
      let code (e : FieldEntry) : Nat :=
        if e.removing then 3
        else if e.refused = some e.desired then 2 else if e.confirmed = some e.desired then 1 else 0
      let inFlight : Bool := match s.context with
        | some (.label turn) => decide (turn.handle = h ∧ turn.generation = r.generation)
        | some (.offer turn) => decide (turn.handle = h ∧ turn.generation = r.generation)
        | some (.joinWindow _) => false
        | none => false
      let editOpen : Bool := match s.edit with | none => false | some edit => decide (edit.handle = h)
      (r.state = .free →
        exec (.readRecord [byteOf h.val]) s
          = .next (s.answered status [byteOf h.val] .ok ([0] ++ be32 r.serial ++ [BitVec.ofNat 8 r.outcome.code]))) ∧
      (r.state ≠ .free →
        exec (.readRecord [byteOf h.val]) s
          = .next (s.answered status [byteOf h.val] .ok
              ([BitVec.ofNat 8 r.state.code, r.generation] ++ be32 r.serial ++
                [BitVec.ofNat 8 r.outcome.code, orFF (r.seat.map Fin.val), orFF (r.target.map Fin.val),
                  BitVec.ofNat 8 r.period.val, orFF (r.pendingPeriod.map Fin.val),
                  BitVec.ofNat 8 (r.modeDesired.code + 4 * r.modeConfirmed.code + 16 * r.modeHold),
                  BitVec.ofNat 8 (r.level.val + 4 * r.floor.val + 16 * r.policy.code),
                  BitVec.ofNat 8 (r.offset.code + 4 * r.huntCandidate.code + 16 * r.huntMisses),
                  BitVec.ofNat 8 (r.missCount + 16 * r.attempts), BitVec.ofNat 8 r.windowTurns,
                  BitVec.ofNat 8 r.windowBad, BitVec.ofNat 8 (r.cleanWindows + 16 * r.nextTag.toNat)] ++
                (match r.lastHeard with
                  | none => [0, 0, 0]
                  | some heard => be16 heard.superframe.toNat ++ [BitVec.ofNat 8 heard.slot.val]) ++
                [BitVec.ofNat 8 (inFlight.toNat + 2 * editOpen.toNat + 4 * r.lowSupply.toNat +
                    8 * r.lastHeard.isSome.toNat + 16 * r.supply.isSome.toNat + 32 * r.pressBaseline.isSome.toNat),
                  BitVec.ofNat 8 ((r.supply.getD 0).toNat + 16 * (r.pressBaseline.getD 0).toNat),
                  BitVec.ofNat 8 r.presses, BitVec.ofNat 8 r.fields.length] ++
                r.fields.flatMap fun e =>
                  [BitVec.ofNat 8 (e.id.val + 16 * code e + 64 * e.sent.toNat + 128 * e.removing.toNat),
                    BitVec.ofNat 8 (((s.cellOf e).getD []).length + 16 * e.confirmed.isSome.toNat +
                      32 * e.refused.isSome.toNat),
                    e.desired, e.confirmed.getD 0, e.refused.getD 0])))) ∧
    ((∀ h f : Byte, 160 ≤ h.toNat ∨ f = 0 ∨ 16 ≤ f.toNat →
      exec (.readField [h, f]) s = .next (s.answered status [h, f] .value [])) ∧
    ∀ (h : Handle) (id : FieldId), id ≠ 0 →
      let params := [byteOf h.val, byteOf id.val]
      let code (e : FieldEntry) : Nat :=
        if e.removing then 3
        else if e.refused = some e.desired then 2 else if e.confirmed = some e.desired then 1 else 0
      ((s.record h).state = .free → exec (.readField params) s = .next (s.answered status params .noRecord [])) ∧
      ((s.record h).state ≠ .free → (∀ e ∈ (s.record h).fields, e.id ≠ id) →
        exec (.readField params) s = .next (s.answered status params .value [])) ∧
      ((s.record h).state ≠ .free → ∀ e ∈ (s.record h).fields, e.id = id →
        (∀ f ∈ (s.record h).fields, f.id = id → f = e) →
        exec (.readField params) s
          = .next (s.answered status params .ok
              ([BitVec.ofNat 8 (e.id.val + 16 * code e + 64 * e.sent.toNat + 128 * e.removing.toNat),
                  BitVec.ofNat 8 (((s.cellOf e).getD []).length + 16 * e.confirmed.isSome.toNat +
                    32 * e.refused.isSome.toNat),
                  e.desired, e.confirmed.getD 0, e.refused.getD 0] ++ (s.cellOf e).getD []))))

/-- READ_CHANGED removes the lowest handle from the changed set and returns it with the state of its record; on
an empty set it answers EMPTY and changes nothing. CHANGED is not cleared (R23). TAKE_PRESSES: VALUE above 159,
NO_RECORD on a FREE record; else the press accumulator is returned and cleared in the same step, and the
baseline is kept (R170). -/
def Obligations.ChangedAndPressesTaken : Prop :=
  ∀ (s : State) (status : Byte), s.selected status →
    (((∀ h, s.isChanged h = false) → exec (.readChanged []) s = .next (s.answered status [] .empty [])) ∧
    (∀ h, s.isChanged h = true → (∀ k, k < h → s.isChanged k = false) →
      exec (.readChanged []) s
        = .next ({ s with changed := s.changed.set h.val false }.answered status [] .ok
            [byteOf h.val, BitVec.ofNat 8 (s.record h).state.code]))) ∧
    ((∀ b : Byte, 160 ≤ b.toNat → exec (.takePresses [b]) s = .next (s.answered status [b] .value [])) ∧
    ∀ h : Handle,
      ((s.record h).state = .free →
        exec (.takePresses [byteOf h.val]) s = .next (s.answered status [byteOf h.val] .noRecord [])) ∧
      ((s.record h).state ≠ .free →
        exec (.takePresses [byteOf h.val]) s
          = .next ((s.setRecord h { s.record h with presses := 0 }).answered status [byteOf h.val] .ok
              [BitVec.ofNat 8 (s.record h).presses])))

/-! ## Edits -/

/-- BEGIN_EDIT: VALUE, EDIT_OPEN, NO_RECORD, STATE in this order; else the context opens on the handle with
nothing staged (R158). ABORT_EDIT closes the edit with nothing applied, or answers NO_EDIT (R162). -/
def Obligations.BeginAndAbortEdit : Prop :=
  ∀ (s : State) (status : Byte), s.selected status →
    ((∀ b : Byte, 160 ≤ b.toNat → exec (.beginEdit [b]) s = .next (s.answered status [b] .value [])) ∧
    ∀ h : Handle,
      let b := byteOf h.val
      (s.edit ≠ none → exec (.beginEdit [b]) s = .next (s.answered status [b] .editOpen [])) ∧
      (s.edit = none → (s.record h).state = .free →
        exec (.beginEdit [b]) s = .next (s.answered status [b] .noRecord [])) ∧
      (s.edit = none → (s.record h).state = .releasing →
        exec (.beginEdit [b]) s = .next (s.answered status [b] .state [])) ∧
      (s.edit = none → (s.record h).state ≠ .free → (s.record h).state ≠ .releasing →
        exec (.beginEdit [b]) s
          = .next ({ s with edit := some { handle := h, ops := [] } }.answered status [b] .ok []))) ∧
    ((s.edit = none → exec (.abortEdit []) s = .next (s.answered status [] .noEdit [])) ∧
    (s.edit ≠ none → exec (.abortEdit []) s = .next ({ s with edit := none }.answered status [] .ok [])))

/-- The five STAGE commands: with no edit open NO_EDIT; then VALUE for a parameter out of range; then TOO_MANY
with 8 operations staged; else the operation joins the tail of the list and nothing else changes (R160, R161). -/
def Obligations.StageCommandsAppend : Prop :=
  ∀ (s : State) (status : Byte) (row : Instr) (params : List Byte) (op : Option StagedOp), s.selected status →
    ((∃ (f length : Byte) (value : List Byte), row = .stageField params ∧ params = f :: length :: value ∧
        value.length = length.toNat ∧
        ((∃ id : FieldId, id ≠ 0 ∧ f = byteOf id.val ∧ 1 ≤ value.length ∧ value.length ≤ 12 ∧
            op = some (.set id value)) ∨
          ((f = 0 ∨ 16 ≤ f.toNat ∨ value.length = 0 ∨ 12 < value.length) ∧ op = none))) ∨
      (∃ f : Byte, row = .stageRemove params ∧ params = [f] ∧
        ((∃ id : FieldId, id ≠ 0 ∧ f = byteOf id.val ∧ op = some (.remove id)) ∨
          ((f = 0 ∨ 16 ≤ f.toNat) ∧ op = none))) ∨
      (∃ m : Byte, row = .stageMode params ∧ params = [m] ∧
        ((∃ mode : Mode, m = BitVec.ofNat 8 mode.code ∧ op = some (.mode mode)) ∨ (3 ≤ m.toNat ∧ op = none))) ∨
      (∃ e : Byte, row = .stagePeriod params ∧ params = [e] ∧
        ((∃ period : Exponent, e = byteOf period.val ∧ op = some (.period period)) ∨ (7 ≤ e.toNat ∧ op = none))) ∨
      (∃ n : Byte, row = .stageSeat params ∧ params = [n] ∧
        ((∃ seat : SeatNo, n = byteOf seat.val ∧ op = some (.seat (.named seat))) ∨
          (n = 0xFF ∧ op = some (.seat .any)) ∨ (189 ≤ n.toNat ∧ n.toNat ≤ 254 ∧ op = none)))) →
    (s.edit = none → exec row s = .next (s.answered status params .noEdit [])) ∧
    (∀ edit, s.edit = some edit → op = none → exec row s = .next (s.answered status params .value [])) ∧
    (∀ edit o, s.edit = some edit → op = some o → 8 ≤ edit.ops.length →
      exec row s = .next (s.answered status params .tooMany [])) ∧
    (∀ edit o, s.edit = some edit → op = some o → edit.ops.length < 8 →
      exec row s
        = .next ({ s with edit := some { handle := edit.handle, ops := edit.ops ++ [o] } }.answered status params
            .ok []))

/-- COMMIT_EDIT with no edit open answers NO_EDIT; a commit that is refused leaves everything but the port as it
was, the edit open with its list, and its response has length 0; a commit that is not refused answers OK with
length 0, closes the edit, inserts nothing into the changed set and sets no event flag. With field lists and
cells in order, a list of any operations: VALUE if a REMOVE meets an id absent from the copy at its step, then
TOO_MANY if the copy holds more than 6 entries, NO_CELLS if the entries created less those dropped outnumber the
free cells, SEAT_TAKEN, NO_SEAT or STATE of its seat change, in this order; else the whole list is applied in
one step: the last mode, the last period and the last seat change, each field by the last operation that names
it, the old seat of an OFFERED record COOLING, and every other record, seat and cell as before (R72 to R76,
R110, R117, R122, R163 to R165; created entries take the lowest cells once dropped ones are back, log 9, the
model's choice). -/
def Obligations.CommitIsAllOrNothing : Prop :=
  (∀ (s : State) (status : Byte), s.selected status →
    (s.edit = none → exec (.commitEdit []) s = .next (s.answered status [] .noEdit [])) ∧
    (s.edit ≠ none →
      (∃ result, result ∈ ([.value, .tooMany, .noCells, .seatTaken, .noSeat, .state] : List ResultCode) ∧
        exec (.commitEdit []) s = .next (s.answered status [] result [])) ∨
      ∃ t, exec (.commitEdit []) s = .next t ∧ t.edit = none ∧ t.port = (s.answered status [] .ok []).port ∧
        t.changed = s.changed ∧ t.offerQueue = s.offerQueue ∧ t.joinQueue = s.joinQueue ∧ t.time = s.time ∧
        t.context = s.context ∧ t.limits = s.limits ∧ t.census = s.census ∧
        ∀ edit, s.edit = some edit → ∀ k, k ≠ edit.handle → t.record k = s.record k)) ∧
  (∀ (s : State) (status : Byte) (h : Handle) (ops : List StagedOp), s.selected status →
    s.edit = some { handle := h, ops := ops } → FieldInvariant s → CellInvariant s →
    let r := s.record h
    let refused (result : ResultCode) : Prop := exec (.commitEdit []) s = .next (s.answered status [] result [])
    let absentRemove : Prop :=
      ∃ before id after, ops = before ++ .remove id :: after ∧ r.presentAfter before id = false
    let size := (List.finRange 16).countP (r.presentAfter ops)
    let created := (List.finRange 16).countP fun id => r.presentAfter ops id && !r.presentAfter [] id
    let dropped := (List.finRange 16).countP fun id => r.presentAfter [] id && !r.presentAfter ops id
    let free := s.cells.toList.countP Option.isNone
    let change : Option SeatRequest := match lastOf StagedOp.seat? ops with
      | none => none
      | some .any => some .any
      | some (.named n) => if r.seat = some n then none else some (.named n)
    let given (n : SeatNo) : Prop := s.seatState n = .free ∧
      (change = some (.named n) ∨ (change = some .any ∧ ∀ m, m < n → s.seatState m ≠ .free))
    (absentRemove → refused .value) ∧
    (¬absentRemove → 6 < size → refused .tooMany) ∧
    (¬absentRemove → size ≤ 6 → free + dropped < created → refused .noCells) ∧
    (¬absentRemove → size ≤ 6 → created ≤ free + dropped →
      (∀ n, change = some (.named n) → s.seatState n ≠ .free → refused .seatTaken) ∧
      (change = some .any → (∀ n, s.seatState n ≠ .free) → refused .noSeat) ∧
      (∀ n, given n → r.state ≠ .offered → r.target ≠ none → refused .state) ∧
      ∀ seat : Option SeatNo,
        (change = none ∧ seat = none) ∨ (∃ n, seat = some n ∧ given n ∧ (r.state = .offered ∨ r.target = none)) →
        ∃ t, exec (.commitEdit []) s = .next t ∧
          t = { s.answered status [] .ok [] with
            edit := none, records := t.records, seats := t.seats, cells := t.cells } ∧
          (∀ k, k ≠ h → t.record k = s.record k) ∧
          t.record h =
            { r with
              fields := (t.record h).fields
              modeDesired := (lastOf StagedOp.mode? ops).getD r.modeDesired
              pendingPeriod := (match lastOf StagedOp.period? ops with
                | none => r.pendingPeriod
                | some e => if e = r.period then none else some e)
              seat := if r.state = .offered then seat.or r.seat else r.seat
              target := if r.state = .offered then r.target else seat.or r.target } ∧
          (∀ n, t.seatState n =
            if seat = some n then .held h
            else if seat ≠ none ∧ r.state = .offered ∧ r.seat = some n then .cooling 128
            else s.seatState n) ∧
          CommittedFields s t h ops))

/-- A commit of one mode or period operation: the mode desired becomes the mode staged (R122), the pending
period follows the table of R117; a commit of no operation changes nothing. Each closes the edit. A commit of
one seat operation: SEAT_TAKEN, NO_SEAT and STATE as R164 gives; the seat of an OFFERED record is replaced and
its old seat cools, a BOUND, MISSING or LOST record takes a move target; naming the present seat changes nothing
(R44, R110, R111). -/
def Obligations.CommitModePeriodSeat : Prop :=
  (∀ (s : State) (status : Byte) (h : Handle), s.selected status → (s.record h).fields.length ≤ 6 →
    (s.edit = some { handle := h, ops := [] } →
      exec (.commitEdit []) s = .next ({ s with edit := none }.answered status [] .ok [])) ∧
    (∀ m, s.edit = some { handle := h, ops := [.mode m] } →
      exec (.commitEdit []) s
        = .next ({ s with
            records := s.records.set h.val { s.record h with modeDesired := m }, edit := none }.answered
            status [] .ok [])) ∧
    (∀ v, s.edit = some { handle := h, ops := [.period v] } →
      exec (.commitEdit []) s
        = .next ({ s with
            records := s.records.set h.val
              { s.record h with pendingPeriod := if v = (s.record h).period then none else some v }
            edit := none }.answered status [] .ok []))) ∧
  (∀ (s : State) (status : Byte) (h : Handle) (request : SeatRequest) (old : SeatNo), s.selected status →
    (s.record h).fields.length ≤ 6 → s.edit = some { handle := h, ops := [.seat request] } →
    (s.record h).seat = some old → s.seatState old = .held h →
    let mobile : Prop := (s.record h).state = .bound ∨ (s.record h).state = .missing ∨ (s.record h).state = .lost
    (request = .named old → exec (.commitEdit []) s = .next ({ s with edit := none }.answered status [] .ok [])) ∧
    (∀ n, request = .named n → n ≠ old → s.seatState n ≠ .free →
      exec (.commitEdit []) s = .next (s.answered status [] .seatTaken [])) ∧
    (request = .any → (∀ n, s.seatState n ≠ .free) →
      exec (.commitEdit []) s = .next (s.answered status [] .noSeat [])) ∧
    (∀ n, s.seatState n = .free → request = .named n ∨ (request = .any ∧ ∀ m, m < n → s.seatState m ≠ .free) →
      (mobile → (s.record h).target ≠ none → exec (.commitEdit []) s = .next (s.answered status [] .state [])) ∧
      (mobile → (s.record h).target = none →
        exec (.commitEdit []) s
          = .next ({ s with
              records := s.records.set h.val { s.record h with target := some n }
              seats := s.seats.set n.val (.held h)
              edit := none }.answered status [] .ok [])) ∧
      ((s.record h).state = .offered →
        exec (.commitEdit []) s
          = .next ({ s with
              records := s.records.set h.val { s.record h with seat := some n }
              seats := (s.seats.set old.val (.cooling 128)).set n.val (.held h)
              edit := none }.answered status [] .ok []))))

/-- A commit of one field operation on a record with its list in order: REMOVE of an absent id is VALUE; a SET
of an absent id creates it at version 1 in the lowest free cell, TOO_MANY past six entries and NO_CELLS with no
free cell before that; a SET of the present value changes nothing; another value is written into the entry's own
cell under the first version after the desired one that is none of the confirmed, the refused and the one in
flight, one to four steps ahead; a REMOVE drops an
entry not yet sent with its cell and marks one that was sent; a SET revives a REMOVING entry (R18, R19, R72 to
R76, R164). -/
def Obligations.CommitOneFieldOperation : Prop :=
  ∀ (s : State) (status : Byte) (h : Handle) (id : FieldId), s.selected status → FieldInvariant s → CellInvariant s →
    id ≠ 0 →
    let r := s.record h
    let unchanged : Prop := exec (.commitEdit []) s = .next ({ s with edit := none }.answered status [] .ok [])
    let entryBecomes (e f : FieldEntry) (cells : Vector (Option (List Byte)) 512) : Prop :=
      exec (.commitEdit []) s
        = .next ({ s with
            records := s.records.set h.val { r with fields := r.fields.map fun x => if x = e then f else x }
            cells := cells, edit := none }.answered status [] .ok [])
    (s.edit = some { handle := h, ops := [.remove id] } →
      ((∀ e ∈ r.fields, e.id ≠ id) → exec (.commitEdit []) s = .next (s.answered status [] .value [])) ∧
      (∀ e ∈ r.fields, e.id = id →
        (e.removing = true → unchanged) ∧
        (e.removing = false → e.sent = true → entryBecomes e { e with removing := true } s.cells) ∧
        (e.removing = false → e.sent = false →
          exec (.commitEdit []) s
            = .next ({ s with
                records := s.records.set h.val { r with fields := r.fields.filter (· ≠ e) }
                cells := s.cells.set e.cell.val none, edit := none }.answered status [] .ok [])))) ∧
    (∀ value, s.edit = some { handle := h, ops := [.set id value] } →
      ((∀ e ∈ r.fields, e.id ≠ id) →
        (r.fields.length = 6 → exec (.commitEdit []) s = .next (s.answered status [] .tooMany [])) ∧
        (r.fields.length < 6 → (∀ c : CellNo, s.cells[c.val] ≠ none) →
          exec (.commitEdit []) s = .next (s.answered status [] .noCells [])) ∧
        (r.fields.length < 6 → ∀ c : CellNo, s.cells[c.val] = none → (∀ d : CellNo, d < c → s.cells[d.val] ≠ none) →
          ∃ t, exec (.commitEdit []) s = .next t ∧ t.edit = none ∧ t.cells = s.cells.set c.val (some value) ∧
            t.port = (s.answered status [] .ok []).port ∧ (t.record h).fields.Perm
              ({ id := id, cell := c, desired := 1, confirmed := none, refused := none, sent := false,
                 removing := false } :: r.fields) ∧
            ((t.record h).fields.map FieldEntry.id).Pairwise (· < ·))) ∧
      (∀ e ∈ r.fields, e.id = id →
        (e.removing = false → s.cellOf e = some value → unchanged) ∧
        (e.removing = true ∨ s.cellOf e ≠ some value →
          ∃ v, s.isNextVersion h e v ∧
            entryBecomes e { e with desired := v, removing := false } (s.cells.set e.cell.val (some value)))))

/-! ## Resets -/

/-- POWER_ON out of reset, and RESET_LINE_RELEASE: every part takes its initial value, with the cause POWER at
power-on and after a release before any power-on reset has completed, else LINE; RESET_LINE_ASSERT holds the
part in reset with every flag and the mask 0, attention released and receiver-enable deasserted, and abandons
the transaction in progress (R13, R21, R39, R172, R180, R183). The queue of rows and the level of READY are the
outside world's (log 1, log 4); when the parts change while reset is held is the model's choice (log 12, log
13), and so are the last clause, that a release with the line not held changes nothing, and a fall with the line
held already, which does the same again (log 20). -/
def Obligations.ResetsTakeInitialValues : Prop :=
  ∀ s : State,
    let chip : ChipSelect := match s.port.select with | .high => .high | .low _ => .abandoned | .abandoned => .abandoned
    let initial (cause : ResetCause) : State :=
      { State.reset with
        ready := s.ready, pending := s.pending
        port := { State.reset.port with resetCause := cause, select := chip } }
    (s.inReset = false → exec .powerOn s = .next (initial .power)) ∧
    (s.inReset = true → exec .powerOn s = .next { s with poweredUp := false }) ∧
    exec .resetLineAssert s = .next
      { s with
        inReset := true
        time := { s.time with receiverEnable := false }
        port := { s.port with flags := 0, mask := 0, attention := false, select := chip } } ∧
    (s.inReset = true → s.poweredUp = true → exec .resetLineRelease s = .next (initial .line)) ∧
    (s.inReset = true → s.poweredUp = false → exec .resetLineRelease s = .next (initial .power)) ∧
    (s.inReset = false → exec .resetLineRelease s = .next s)

/-- What the part holds after power-on: every record FREE with generation 0, serial 0, outcome NONE and every other
part at the value of R12 for a vacated record, the changed set, the
cells, the seats, the queues and the turn context empty, the link STOPPED at superframe 0 with T 128, W 24 and
admissions open, the limits at their defaults, the census IDLE, no edit, and the port clear with cause POWER
(R13, R21, R24, R39, R47, R71, R91, R103, R143, R146, R157, R183). -/
def Obligations.ResetStateHoldsInitialValues : Prop :=
  (∀ h, State.reset.record h =
    { state := .free, generation := 0, serial := 0, outcome := .none, seat := none, target := none, period := 0,
      pendingPeriod := none, modeDesired := .showing, modeConfirmed := .showing, modeHold := 0, level := 0, floor := 0,
      policy := .automatic, offset := .centered, huntCandidate := .centered, huntMisses := 0, missCount := 0,
      windowTurns := 0, windowBad := 0, cleanWindows := 0, attempts := 0, lastHeard := none, supply := none,
      lowSupply := false, pressBaseline := none, presses := 0, nextTag := 0, fields := [] }) ∧
  (∀ h, State.reset.isChanged h = false) ∧
  (∀ c : CellNo, State.reset.cells[c.val] = none) ∧
  (∀ n, State.reset.seatState n = .free) ∧
  State.reset.time.link = .stopped ∧ State.reset.time.superframe = 0 ∧ State.reset.time.slot = 0 ∧
  State.reset.time.position = 0 ∧ State.reset.time.tick = 0 ∧ State.reset.time.settle = none ∧
  State.reset.time.timing = { turnLength := 128, replyWindow := 24, admissionOpen := true } ∧
  State.reset.time.pendingTiming = none ∧ State.reset.time.receiverEnable = false ∧
  State.reset.context = none ∧ State.reset.lateRef = none ∧
  State.reset.limits = ⟨4, 2, 16, 3, 8, 4, 3⟩ ∧
  State.reset.census = { state := .idle, remaining := 0, running := ⟨0, 0, 0, 0⟩, latched := ⟨0, 0, 0, 0⟩ } ∧
  State.reset.joinQueue = [] ∧ State.reset.offerQueue = [] ∧ State.reset.edit = none ∧
  State.reset.port.flags = 0 ∧ State.reset.port.mask = 0 ∧ State.reset.port.attention = false ∧
  State.reset.port.lastResult = .ok ∧ State.reset.port.response = [] ∧ State.reset.port.skipped = 0 ∧
  State.reset.port.late = 0 ∧ State.reset.port.resetCause = .power

/-! ## Events of the Time Base -/

/-- A superframe start with an empty offer queue: the number advances (65535 to 0), the place is slot 0 position
0 tick 0, pending timing comes into use, each cooling countdown steps and a seat that reaches 0 is FREE, the
late reference goes, and nothing else changes (R31, R41, R46, R65, R92). SETTLE_EXPIRY in STARTING is, whatever
the queue, a superframe start of the engine in RUNNING with LINK_STATE set (R36). In other states the two rows
have no effect (log 2, the model's choice but for R36). -/
def Obligations.SuperframeStartAdvances : Prop :=
  ∀ (s : State) (ready : Bool), s.inReset = false →
    let begun (link : LinkState) : State :=
      { s with
        time :=
          { s.time with
            link := link, superframe := s.time.superframe + 1, slot := 0, position := 0, tick := 0, settle :=
              if s.time.link = .starting then none else s.time.settle,
            timing := s.time.pendingTiming.getD s.time.timing, pendingTiming := none }
        seats := s.seats.map fun v => match v with
          | .cooling n => if n ≤ 1 then .free else .cooling (n - 1)
          | .held h => .held h
          | .free => .free
        lateRef := none
        ready := ready }
    (s.time.link = .running → s.context = none → s.offerQueue = [] →
      exec (.superframeStart ready) s = .next (begun .running)) ∧
    (s.time.link = .starting → s.offerQueue = [] →
      exec (.settleExpiry ready) s = .next ((begun .running).setFlag .linkState)) ∧
    (s.time.link = .starting → s.context = none →
      exec (.settleExpiry ready) s
        = exec (.superframeStart ready)
            ({ s with time := { s.time with link := .running, settle := none } }.setFlag .linkState)) ∧
    (s.time.link ≠ .running → exec (.superframeStart ready) s = .next s) ∧
    (s.time.link ≠ .starting → exec (.settleExpiry ready) s = .next s)

/-- The offer turn start of a superframe in RUNNING. READY inactive: skipped and counted, queue and records
unchanged. READY active and the head's attempt count below 4: the OFFER is built for it, with address 0, kind 7,
tag 0, level 3 and the 8 payload bytes, and no record, queue or count changes (R67, R92, R94, R185). The records
at the head of the offer queue with four OFFERs sent fall to LOST one after another in the one offer turn: out
of the queue, LOST, WIDE, in the changed set, with LOST and CHANGED set and their other parts kept; the first
behind them with fewer is offered, and with nobody behind them the offer turn is idle and not skipped (R92,
R93). -/
def Obligations.OfferTurnServesQueue : Prop :=
  let offered (s : State) (h : Handle) (n : SeatNo) (t : State) : Prop :=
    t.context = some (.offer
      { handle := h, generation := (s.record h).generation, superframe := s.time.superframe + 1 }) ∧
    ∃ check : BitVec 16,
      let body : List Byte :=
        [0, 0x70, 0xC0 ||| ((s.time.superframe + 1).setWidth 6).setWidth 8, 8] ++ be32 (s.record h).serial ++
          [BitVec.ofNat 8 (h.val + 1), byteOf n.val, byteOf (s.record h).period.val, byteOf (s.record h).level.val]
      check = frameCheck body ∧ t.frameOut = body ++ [(check >>> 8).setWidth 8, check.setWidth 8]
  (∀ (s : State) (h : Handle) (rest : List Handle) (n : SeatNo), s.inReset = false → s.time.link = .running →
    s.context = none → s.offerQueue = h :: rest → (s.record h).seat = some n →
    (∃ t, exec (.superframeStart false) s = .next t ∧ t.context = none ∧ t.records = s.records ∧
      t.offerQueue = s.offerQueue ∧ t.changed = s.changed ∧ t.frameOut = s.frameOut ∧
      t.port.skipped = min (s.port.skipped + 1) 65535 ∧ t.flag .turnSkipped = true ∧
      t.time.superframe = s.time.superframe + 1) ∧
    ((s.record h).attempts < 4 →
      ∃ t, exec (.superframeStart true) s = .next t ∧ t.records = s.records ∧ t.offerQueue = s.offerQueue ∧
        t.changed = s.changed ∧ t.port = s.port ∧ t.time.superframe = s.time.superframe + 1 ∧ offered s h n t)) ∧
  (∀ (s : State) (gone rest : List Handle), s.inReset = false → s.time.link = .running → s.context = none →
    s.offerQueue = gone ++ rest → (gone ++ rest).Nodup → gone ≠ [] → (∀ h ∈ gone, 4 ≤ (s.record h).attempts) →
    (∀ h behind, rest = h :: behind → (s.record h).attempts < 4) →
    ∃ t, exec (.superframeStart true) s = .next t ∧ t.offerQueue = rest ∧
      (∀ h ∈ gone, t.record h = { s.record h with state := .lost, offset := .wide } ∧ t.isChanged h = true) ∧
      (∀ k, k ∉ gone → t.record k = s.record k ∧ t.isChanged k = s.isChanged k) ∧
      t.flag .lost = true ∧ t.flag .changed = true ∧ t.port.skipped = s.port.skipped ∧ t.cells = s.cells ∧
      t.time.superframe = s.time.superframe + 1 ∧
      (rest = [] → t.context = none ∧ t.frameOut = s.frameOut) ∧
      (∀ h behind n, rest = h :: behind → (s.record h).seat = some n → offered s h n t))

/-- COOLING_EXPIRY frees a COOLING seat whose countdown is 0 and leaves any other seat (R46; the row is held
inside SUPERFRAME_START, log 10). CENSUS_COMPLETION with the census COUNTING and no turn remaining latches the
running counts, makes the census IDLE and sets CENSUS_DONE, else it has no effect (R145; held inside the close,
log 11). -/
def Obligations.CompletionRowsActAtZero : Prop :=
  ∀ s : State, s.inReset = false →
    (∀ n, s.seatState n = .cooling 0 → exec (.coolingExpiry n) s = .next { s with seats := s.seats.set n.val .free }) ∧
    (∀ n, s.seatState n ≠ .cooling 0 → exec (.coolingExpiry n) s = .next s) ∧
    (s.census.state = .counting → s.census.remaining = 0 →
      exec .censusCompletion s
        = .next ({ s with
            census := { s.census with state := .idle, latched := s.census.running } }.setFlag .censusDone)) ∧
    (s.census.state = .idle ∨ s.census.remaining ≠ 0 → exec .censusCompletion s = .next s)

/-- The admission slot. OFFER_TURN_TIMEOUT closes an OFFER not yet reported sent as SKIPPED, uncounted, and ends
a drain; JOIN_WINDOW_START in RUNNING with admissions open creates the join window context; JOIN_WINDOW_END makes
it absent (R30, R67, R68, R70). The model's choices: the rows place the schedule at slot 0 position 1, a
JOIN_WINDOW_START on an OFFER still in flight closes it SKIPPED first, JOIN_WINDOW_END leaves the place as it
stands (log 3), and JOIN_WINDOW_START with admissions closed or outside RUNNING has no effect (log 2). -/
def Obligations.AdmissionSlotEvents : Prop :=
  ∀ s : State, s.inReset = false →
    let atWindow : State := { s with time := { s.time with slot := 0, position := 1, tick := 0 } }
    (∀ turn, s.context = some (.offer turn) → s.time.link ≠ .stopping →
      exec .offerTurnTimeout s = .next ({ atWindow with context := none }.skipTurn)) ∧
    (∀ turn, s.context = some (.offer turn) → s.time.link = .stopping →
      ∃ t, exec .offerTurnTimeout s = .next t ∧ t.time.link = .stopped ∧ t.context = none ∧
        t.flag .linkState = true ∧ t.flag .turnSkipped = true ∧ t.records = s.records ∧
        t.offerQueue = s.offerQueue ∧ t.port.skipped = min (s.port.skipped + 1) 65535) ∧
    (s.time.link = .running → s.time.timing.admissionOpen = true → s.context = none →
      exec .joinWindowStart s = .next { atWindow with context := some (.joinWindow s.time.superframe) }) ∧
    (∀ turn, s.time.link = .running → s.time.timing.admissionOpen = true → s.context = some (.offer turn) →
      exec .joinWindowStart s
        = .next ({ atWindow with context := some (.joinWindow s.time.superframe) }.skipTurn)) ∧
    (s.time.timing.admissionOpen = false ∨ s.time.link ≠ .running → exec .joinWindowStart s = .next s) ∧
    (∀ n, s.context = some (.joinWindow n) → exec .joinWindowEnd s = .next { s with context := none })

/-! ## Turns -/

/-- A record is awake in superframe n when n mod 2^e is its handle mod 2^e; its effective exponent is 6 if it is
LOST or its confirmed mode is DORMANT, else its period (R48, R49). -/
def Obligations.WakeRule : Prop :=
  ∀ (r : Record) (h : Handle) (n : BitVec 16),
    (r.state = .lost ∨ r.modeConfirmed = .dormant → r.effectiveExponent = 6) ∧
    (r.state ≠ .lost → r.modeConfirmed ≠ .dormant → r.effectiveExponent = r.period) ∧
    ∀ e : Exponent, awake e h n = true ↔ n.toNat % 2 ^ e.val = h.val % 2 ^ e.val

/-- A TURN_START in RUNNING with no turn in flight that finds its seat FREE or COOLING, or HELD by a record that
is not awake, is idle whatever READY shows: the place moves to the seat's turn, the late reference goes, and
nothing else changes. With a record awake and READY inactive the turn is also SKIPPED: counted, with no record
changed (R53, R59, R60, R65). -/
def Obligations.TurnStartIdleOrSkipped : Prop :=
  ∀ (s : State) (n : SeatNo) (ready : Bool) (slot : Fin 64) (position : Fin 3), s.inReset = false →
    s.time.link = .running → s.context = none → slot.val = n.val / 3 + 1 → position.val = n.val % 3 →
    let idle : State :=
      { s with
        time := { s.time with slot := slot, position := position, tick := 0 }, lateRef := none, ready := ready }
    (s.seatState n = .free ∨ (∃ k, s.seatState n = .cooling k) →
      exec (.turnStart n ready) s = .next idle) ∧
    (∀ h, s.seatState n = .held h → (s.record h).state ≠ .free →
      (awake (s.record h).effectiveExponent h s.time.superframe = false →
        exec (.turnStart n ready) s = .next idle) ∧
      (awake (s.record h).effectiveExponent h s.time.superframe = true → ready = false →
        exec (.turnStart n ready) s = .next idle.skipTurn))

/-- The frame kind of a turn that carries one: RELEASE for a RELEASING record in either seat, POLL in a move
target or for an OFFERED record, and in its own seat of a BOUND, MISSING or LOST record the first of MOVE, MODE
(at mode hold 0), RETIME, UPDATE (with no edit open on it) and POLL that applies (R53 to R56). -/
def Obligations.WorkSelectionPriority : Prop :=
  ∀ (s : State) (n : SeatNo) (h : Handle), s.inReset = false → s.time.link = .running → s.context = none →
    s.seatState n = .held h → (s.record h).state ≠ .free →
    awake (s.record h).effectiveExponent h s.time.superframe = true →
    let r := s.record h
    let probe : Prop := r.target = some n
    let mobile : Prop := r.state = .bound ∨ r.state = .missing ∨ r.state = .lost
    let modeWaits : Prop := r.modeDesired ≠ r.modeConfirmed ∧ r.modeHold = 0
    let items : Prop :=
      ∃ e ∈ r.fields, e.removing = true ∨ (e.refused ≠ some e.desired ∧ e.confirmed ≠ some e.desired)
    let editOpen : Prop := ∃ edit, s.edit = some edit ∧ edit.handle = h
    ∃ (t : State) (turn : LabelTurn), exec (.turnStart n true) s = .next t ∧ t.context = some (.label turn) ∧
      (turn.kind = .probe ↔ probe) ∧
      (r.state = .releasing → turn.work = .release) ∧
      (probe → r.state ≠ .releasing → turn.work = .poll) ∧
      (r.state = .offered → turn.work = .poll) ∧
      (¬probe → mobile →
        (∀ m, r.target = some m → turn.work = .move m) ∧
        (r.target = none → modeWaits → turn.work = .mode r.modeDesired) ∧
        (r.target = none → ¬modeWaits → ∀ e, r.pendingPeriod = some e → turn.work = .retime e) ∧
        (r.target = none → ¬modeWaits → r.pendingPeriod = none → items → ¬editOpen →
          ∃ sent, turn.work = .update sent) ∧
        (r.target = none → ¬modeWaits → r.pendingPeriod = none → (¬items ∨ editOpen) → turn.work = .poll))

/-- The build of a frame: the context carries the seat, the handle, the generation, the superframe number, the
slot, the record's next tag and level, the hunt candidate in MISSING or else the window offset, the planned
points of R32, and phase SENDING; the record's next tag is advanced and, of its other parts, only sent flags can
change; no other record, seat, cell, queue, flag or count changes (R32, R51, R57, R58, R81). The frame handed to
the front end is the header (link address; kind and tag; level and the low 6 bits of the superframe number;
payload length), the payload of its kind, and the check over both, high byte first (R57, R185). -/
def Obligations.TurnStartBuildsFrame : Prop :=
  ∀ (s : State) (n : SeatNo) (h : Handle), s.inReset = false → s.time.link = .running → s.context = none →
    s.seatState n = .held h → (s.record h).state ≠ .free →
    awake (s.record h).effectiveExponent h s.time.superframe = true →
    let r := s.record h
    let T := s.time.timing.turnLength
    let W := s.time.timing.replyWindow
    let offset := if r.state = .missing then r.huntCandidate else r.offset
    ∃ (t : State) (turn : LabelTurn) (fields : List FieldEntry), exec (.turnStart n true) s = .next t ∧
      t.context = some (.label turn) ∧ turn.phase = .sending ∧ turn.seat = n ∧ turn.handle = h ∧
      turn.generation = r.generation ∧ turn.superframe = s.time.superframe ∧ turn.slot.val = n.val / 3 + 1 ∧
      turn.tag = r.nextTag ∧ turn.level = r.level ∧ turn.offset = offset ∧
      turn.plannedOpen = (match offset with
        | .centered => T / 2 | .late => T / 2 + W / 4 | .early => T / 2 - W / 4 | .wide => T / 2 - W / 2) ∧
      turn.plannedClose = turn.plannedOpen + (match offset with
        | .centered => W | .late => W | .early => W | .wide => 2 * W) ∧
      t.record h = { r with nextTag := r.nextTag + 1, fields := fields } ∧
      fields = r.fields.map (fun e => { e with sent := e.sent || (match turn.work with
        | .update items => items.any fun item => match item with | .set id _ => id == e.id | .remove _ => false
        | .poll | .mode _ | .retime _ | .move _ | .release => false) }) ∧
      (let value (id : FieldId) : List Byte := match r.fields.find? fun e => e.id = id with
        | none => []
        | some e => (s.cellOf e).getD []
      let kind : BitVec 4 := match turn.work with
        | .poll => 1 | .update _ => 2 | .mode _ => 3 | .retime _ => 4 | .move _ => 5 | .release => 6
      let payload : List Byte := match turn.work with
        | .poll => []
        | .update items => items.flatMap fun item => match item with
          | .set id version => [0#4 ++ BitVec.ofNat 4 id.val, version, BitVec.ofNat 8 (value id).length] ++ value id
          | .remove id => [1#1 ++ 0#3 ++ BitVec.ofNat 4 id.val, 0]
        | .mode m => [match m with | .showing => 0 | .blank => 1 | .dormant => 2]
        | .retime e => [BitVec.ofNat 8 e.val]
        | .move m => [BitVec.ofNat 8 m.val]
        | .release => []
      let body : List Byte :=
        [BitVec.ofNat 8 (h.val + 1), kind ++ r.nextTag,
          BitVec.ofNat 2 r.level.val ++ s.time.superframe.setWidth 6, BitVec.ofNat 8 payload.length] ++ payload
      t.frameOut = body ++ [(frameCheck body >>> 8).setWidth 8, (frameCheck body).setWidth 8]) ∧
      (∀ k, k ≠ h → t.record k = s.record k) ∧ t.seats = s.seats ∧ t.cells = s.cells ∧ t.changed = s.changed ∧
      t.offerQueue = s.offerQueue ∧ t.joinQueue = s.joinQueue ∧ t.port = s.port ∧ t.census = s.census ∧
      t.edit = s.edit ∧ t.lateRef = none

/-- The items of an UPDATE: each PENDING entry gives a set item of 3 bytes and its value, each REMOVING entry a
remove item of 2, in ascending field id; an entry's item is carried exactly if its cost fits what the items of
lower field id that are carried leave of the capacity 48, 40, 28 or 16 of the level; an entry that does not fit
is passed over, and there is at least one item (R79, R80). -/
def Obligations.PackingFitsCapacity : Prop :=
  ∀ (s : State) (n : SeatNo) (h : Handle) (t : State) (turn : LabelTurn) (items : List Item), s.inReset = false →
    s.time.link = .running → s.context = none → s.seatState n = .held h → FieldInvariant s → CellInvariant s →
    exec (.turnStart n true) s = .next t → t.context = some (.label turn) → turn.work = .update items →
    let r := s.record h
    let itemOf (e : FieldEntry) : Option Item :=
      if e.removing then some (.remove e.id)
      else if e.refused = some e.desired ∨ e.confirmed = some e.desired then none
      else some (.set e.id e.desired)
    let idOf (item : Item) : FieldId := match item with | .set id _ => id | .remove id => id
    let cost (item : Item) : Nat := match item with
      | .set id _ => 3 + (match r.fields.find? fun e => e.id = id with
        | none => 0
        | some e => ((s.cellOf e).getD []).length)
      | .remove _ => 2
    let capacity : Nat := match r.level with | 0 => 48 | 1 => 40 | 2 => 28 | 3 => 16
    (items.map cost).sum ≤ capacity ∧ 1 ≤ items.length ∧ items.length ≤ 6 ∧
    (∀ item ∈ items, ∃ e ∈ r.fields, itemOf e = some item) ∧
    (items.map idOf).Pairwise (· < ·) ∧
    (∀ e ∈ r.fields, ∀ item, itemOf e = some item →
      (item ∈ items ↔ cost item + ((items.filter fun i => idOf i < e.id).map cost).sum ≤ capacity)) ∧
    ((((r.fields.filterMap itemOf).map cost).sum ≤ capacity) → items = r.fields.filterMap itemOf)

/-- DOWNLINK_SENT. In SENDING the window opens at once if the planned open point has come, else the turn WAITS;
with the claim live, a LABEL turn steps the mode hold down and a RELEASE the attempt count up to 4, and the
claim of a FREE record or another generation changes no record (R2, R52, R61, R150). An OFFER is counted for a
record still OFFERED of its generation, which goes to the tail (R94); in STOPPING the same, and the drain ends:
STOPPED at slot 0, position 0, tick 0 with LINK_STATE set (R38, R70). In any other phase, and with no context,
the report is discarded (R52). That the hold and the count step in STOPPING too is the model's reading (log 18). -/
def Obligations.DownlinkSentEffects : Prop :=
  ∀ s : State, s.inReset = false →
    (∀ turn, s.context = some (.label turn) → turn.phase = .sending →
      let r := s.record turn.handle
      let phase : Phase := if s.time.tick < turn.plannedOpen then .waiting else .listening
      let moved : State := { s with context := some (.label { turn with phase := phase }) }
      (r.state ≠ .free → r.generation = turn.generation →
        exec .downlinkSent s = .next (moved.setRecord turn.handle
          { r with
            modeHold := if turn.kind = .label then r.modeHold - 1 else r.modeHold
            attempts := if turn.work = .release then min (r.attempts + 1) 4 else r.attempts })) ∧
      (r.state = .free ∨ r.generation ≠ turn.generation → exec .downlinkSent s = .next moved)) ∧
    (∀ turn, s.context = some (.offer turn) →
      let r := s.record turn.handle
      let counted : State :=
        { s with
          context := none
          records := s.records.set turn.handle.val { r with attempts := min (r.attempts + 1) 4 }
          offerQueue := s.offerQueue.filter (· ≠ turn.handle) ++ [turn.handle] }
      let drained (u : State) : State :=
        State.setFlag
          { u with
            time :=
              { u.time with
                link := .stopped, slot := 0, position := 0, tick := 0, settle := none, receiverEnable := false,
                timing := u.time.pendingTiming.getD u.time.timing, pendingTiming := none }
            lateRef := none } .linkState
      (r.state = .offered → r.generation = turn.generation →
        (s.time.link = .running → exec .downlinkSent s = .next counted) ∧
        (s.time.link = .stopping → exec .downlinkSent s = .next (drained counted))) ∧
      (r.state ≠ .offered ∨ r.generation ≠ turn.generation →
        (s.time.link = .running → exec .downlinkSent s = .next { s with context := none }) ∧
        (s.time.link = .stopping → exec .downlinkSent s = .next (drained { s with context := none })))) ∧
    (∀ turn, s.context = some (.label turn) → turn.phase ≠ .sending → exec .downlinkSent s = .next s) ∧
    (s.context = none ∨ (∃ n, s.context = some (.joinWindow n)) → exec .downlinkSent s = .next s)

/-- PLANNED_OPEN makes a WAITING turn LISTENING; a turn still SENDING or already LISTENING keeps its phase
(R52). Taken from outside, the row brings the tick count to the point (log 3, the model's choice). PLANNED_CLOSE
on a turn still SENDING: closed SKIPPED, with the skipped-turn count and TURN_SKIPPED and no other effect; in
STOPPING the drain ends (R38, R60). -/
def Obligations.PlannedPointsBeforeReply : Prop :=
  (∀ (s : State) (turn : LabelTurn), s.inReset = false → s.context = some (.label turn) →
    let there : State := { s with time := { s.time with tick := max s.time.tick turn.plannedOpen } }
    (turn.phase = .waiting →
      exec .plannedOpen s = .next { there with context := some (.label { turn with phase := .listening }) }) ∧
    (turn.phase = .sending → exec .plannedOpen s = .next there) ∧
    (turn.phase = .listening → exec .plannedOpen s = .next s)) ∧
  (∀ (s : State) (turn : LabelTurn), s.inReset = false → s.context = some (.label turn) → turn.phase = .sending →
    (s.time.link = .running →
      exec .plannedClose s
        = .next (State.skipTurn { s with
            context := none, time := { s.time with tick := max s.time.tick turn.plannedClose } })) ∧
    (s.time.link = .stopping →
      ∃ t, exec .plannedClose s = .next t ∧ t.time.link = .stopped ∧ t.flag .linkState = true ∧
        t.flag .turnSkipped = true ∧ t.context = none ∧ t.records = s.records ∧ t.census = s.census ∧
        t.port.skipped = min (s.port.skipped + 1) 65535))

/-! ## The close of a turn -/

/-- A NONE close of a LABEL turn to a BOUND record of the turn's generation in a superframe that passes the cadence
test is charged: the miss count goes up by one, at the miss limit the record goes MISSING with the hunt at the next
offset and hunt misses 0 and joins the changed set, the late reference is the turn's address and tag, and seats,
cells and other records are as before (R65, R131, R135 to R137). -/
def Obligations.ChargedMissOnBoundRecord : Prop :=
  ∀ (s : State) (turn : LabelTurn), s.inReset = false → s.time.link = .running → s.context = some (.label turn) →
    turn.phase = .listening → turn.kind = .label →
    let r := s.record turn.handle
    r.state = .bound → r.generation = turn.generation → r.passesCadence turn.handle turn.superframe →
    ∃ t, exec .plannedClose s = .next t ∧ t.context = none ∧
      t.lateRef = some { address := byteOf (turn.handle.val + 1), tag := turn.tag } ∧
      (t.record turn.handle).missCount = r.missCount + 1 ∧
      (r.missCount + 1 < s.limits.missLimit → (t.record turn.handle).state = .bound ∧
        (t.record turn.handle).huntCandidate = r.huntCandidate ∧ (t.record turn.handle).huntMisses = r.huntMisses) ∧
      (s.limits.missLimit ≤ r.missCount + 1 → (t.record turn.handle).state = .missing ∧
        (t.record turn.handle).huntCandidate = (match r.offset with
          | .centered => .late | .late => .early | .early => .wide | .wide => .centered) ∧
        (t.record turn.handle).huntMisses = 0 ∧ t.isChanged turn.handle = true ∧ t.flag .changed = true) ∧
      (t.record turn.handle).offset = r.offset ∧ (t.record turn.handle).seat = r.seat ∧
      (t.record turn.handle).target = r.target ∧ (t.record turn.handle).fields = r.fields ∧
      (t.record turn.handle).lastHeard = r.lastHeard ∧ (t.record turn.handle).presses = r.presses ∧
      (∀ k, k ≠ turn.handle → t.record k = s.record k ∧ t.isChanged k = s.isChanged k) ∧
      t.seats = s.seats ∧ t.cells = s.cells ∧ t.offerQueue = s.offerQueue ∧ t.flag .lost = s.flag .lost

/-- A NONE close of a LABEL turn in MISSING in a superframe that passes the cadence test is charged: below the hunt
length the hunt misses go up; at it the hunt moves to the next offset with hunt misses 0, unless that is the
window offset: then the record is LOST, WIDE, in the changed set, with LOST set (R139). A DAMAGED close sets the
hunt misses to 0 and keeps the candidate (R139). These closes leave the record, the changed set, seats, cells and
queues as they were and set no event flag but CENSUS_DONE: NONE on a BOUND or MISSING record in a LABEL turn
whose superframe fails the cadence test; NONE or DAMAGED of a PROBE turn on a BOUND, MISSING or LOST record; NONE
or DAMAGED on an OFFERED record; NONE on a LOST record (R95, R115, R131, R135, R136, R141). -/
def Obligations.HuntMovesOnOrLoses : Prop :=
  (∀ (s : State) (turn : LabelTurn) (row : Instr), s.inReset = false → s.time.link = .running →
    s.context = some (.label turn) → turn.phase = .listening →
    let r := s.record turn.handle
    let damaged : Prop := ∃ frame, row = .uplinkFrame frame ∧ classifyUplink frame = .damaged
    r.generation = turn.generation →
    (row = .plannedClose ∧ turn.kind = .label ∧ (r.state = .bound ∨ r.state = .missing) ∧
        ¬r.passesCadence turn.handle turn.superframe) ∨
      ((row = .plannedClose ∨ damaged) ∧ turn.kind = .probe ∧
        (r.state = .bound ∨ r.state = .missing ∨ r.state = .lost)) ∨
      ((row = .plannedClose ∨ damaged) ∧ r.state = .offered) ∨
      (row = .plannedClose ∧ r.state = .lost) →
    ∃ t, exec row s = .next t ∧ t.context = none ∧ t.records = s.records ∧ t.changed = s.changed ∧
      t.seats = s.seats ∧ t.cells = s.cells ∧ t.offerQueue = s.offerQueue ∧ t.joinQueue = s.joinQueue ∧
      ∀ f, f ≠ .censusDone → t.flag f = s.flag f) ∧
  ∀ (s : State) (turn : LabelTurn), s.inReset = false → s.time.link = .running → s.context = some (.label turn) →
    turn.phase = .listening → turn.kind = .label →
    let r := s.record turn.handle
    let next : WindowOffset := match r.huntCandidate with
      | .centered => .late | .late => .early | .early => .wide | .wide => .centered
    r.state = .missing → r.generation = turn.generation →
    (∀ frame, classifyUplink frame = .damaged →
      ∃ t, exec (.uplinkFrame frame) s = .next t ∧ (t.record turn.handle).state = .missing ∧
        (t.record turn.handle).huntMisses = 0 ∧ (t.record turn.handle).huntCandidate = r.huntCandidate ∧
        (t.record turn.handle).missCount = r.missCount) ∧
    ∃ t, exec .plannedClose s = .next t ∧
      (r.passesCadence turn.handle turn.superframe →
        (r.huntMisses + 1 < s.limits.huntLength → (t.record turn.handle).state = .missing ∧
          (t.record turn.handle).huntCandidate = r.huntCandidate ∧
          (t.record turn.handle).huntMisses = r.huntMisses + 1) ∧
        (s.limits.huntLength ≤ r.huntMisses + 1 → next ≠ r.offset → (t.record turn.handle).state = .missing ∧
          (t.record turn.handle).huntCandidate = next ∧ (t.record turn.handle).huntMisses = 0) ∧
        (s.limits.huntLength ≤ r.huntMisses + 1 → next = r.offset → (t.record turn.handle).state = .lost ∧
          (t.record turn.handle).offset = .wide ∧ t.isChanged turn.handle = true ∧ t.flag .lost = true ∧
          t.flag .changed = true)) ∧
      (t.record turn.handle).missCount = r.missCount ∧ (t.record turn.handle).fields = r.fields ∧
      (t.record turn.handle).seat = r.seat ∧ (t.record turn.handle).target = r.target

/-- A GOOD frame that does not match a LISTENING turn is a stray, and any frame in SENDING or WAITING or in an
offer turn is discarded: nothing changes (R52, R62, R63). With no context, an ACK that equals the late reference
is a late reply: only the late-reply count goes up, saturating; any other frame changes nothing (R62, R65). -/
def Obligations.StrayAndLateReplies : Prop :=
  ∀ (s : State) (frame : Uplink), s.inReset = false →
    (∀ turn, s.context = some (.label turn) → turn.phase ≠ .listening → exec (.uplinkFrame frame) s = .next s) ∧
    (∀ turn, s.context = some (.offer turn) → exec (.uplinkFrame frame) s = .next s) ∧
    (∀ turn, s.context = some (.label turn) → turn.phase = .listening → classifyUplink frame ≠ .damaged →
      (∀ ack corrected, classifyUplink frame ≠ .ack (byteOf (turn.handle.val + 1)) turn.tag ack corrected) →
      exec (.uplinkFrame frame) s = .next s) ∧
    (s.context = none → s.lateRef = none → exec (.uplinkFrame frame) s = .next s) ∧
    (∀ ref, s.context = none → s.lateRef = some ref →
      ((∃ ack corrected, classifyUplink frame = .ack ref.address ref.tag ack corrected) →
        exec (.uplinkFrame frame) s
          = .next { s with port := { s.port with late := min (s.port.late + 1) 65535 } }) ∧
      ((∀ ack corrected, classifyUplink frame ≠ .ack ref.address ref.tag ack corrected) →
        exec (.uplinkFrame frame) s = .next s))

/-- What a decoded frame is: DAMAGED if the header cannot be decoded, if it names a payload above 48 bytes or if
the check differs; else GOOD, an ACK for kind 1 with 2 payload bytes, a JOIN for kind 2 with 5, with the
corrected-error count saturated at 63 and the unnamed bits ignored (R59, R186). The check is the CRC-16 with
generator 1021h, from FFFFh, each byte most significant bit first (R185). -/
def Obligations.UplinkClassification : Prop :=
  (let shift (reg : BitVec 16) : BitVec 16 := if reg.msb then (reg <<< 1) ^^^ 0x1021 else reg <<< 1
  frameCheck [] = 0xFFFF ∧
  ∀ (bytes : List Byte) (b : Byte),
    frameCheck (bytes ++ [b]) = Nat.iterate shift 8 (frameCheck bytes ^^^ (b ++ 0#8))) ∧
  classifyUplink .undecodable = .damaged ∧
  ∀ (address kindTag level length : Byte) (payload : List Byte) (check : BitVec 16) (corrected : Nat),
    let result := classifyUplink (.decoded address kindTag level length payload check corrected)
    let good : Prop := length.toNat ≤ 48 ∧ frameCheck ([address, kindTag, level, length] ++ payload) = check
    (¬good → result = .damaged) ∧
    (good → result ≠ .damaged) ∧
    (∀ a b, good → kindTag.extractLsb' 4 4 = 1#4 → length = 2 → payload = [a, b] →
      result = .ack address (kindTag.extractLsb' 0 4)
        { supply := a.extractLsb' 4 4, presses := a.extractLsb' 0 4, refusals := b.extractLsb' 0 6 }
        (min corrected 63)) ∧
    (∀ a b c d e, good → kindTag.extractLsb' 4 4 = 2#4 → length = 5 → payload = [a, b, c, d, e] →
      result = .join address (a ++ b ++ c ++ d) (e.extractLsb' 0 4) (min corrected 63)) ∧
    (good → ¬(kindTag.extractLsb' 4 4 = 1#4 ∧ length = 2) → ¬(kindTag.extractLsb' 4 4 = 2#4 ∧ length = 5) →
      result = .other)

/-- The first GOOD reply matched to a LABEL turn of an OFFERED record binds it: report, BOUND, mode confirmed
SHOW, miss count 0, out of the offer queue, in the changed set; no quality window, level or attempt count moves,
and seats, cells and other records are as before (R25, R26, R95, R131). -/
def Obligations.GoodReplyBindsOffered : Prop :=
  ∀ (s : State) (turn : LabelTurn) (frame : Uplink) (ack : Ack) (corrected : Nat), s.inReset = false →
    s.time.link = .running → s.context = some (.label turn) → turn.phase = .listening → turn.kind = .label →
    classifyUplink frame = .ack (byteOf (turn.handle.val + 1)) turn.tag ack corrected →
    let r := s.record turn.handle
    r.state = .offered → r.generation = turn.generation →
    ∃ t, exec (.uplinkFrame frame) s = .next t ∧ t.context = none ∧ t.lateRef = s.lateRef ∧
      t.record turn.handle =
        { r with
          lastHeard := some { superframe := turn.superframe, slot := turn.slot }
          supply := some ack.supply
          lowSupply := decide (ack.supply.toNat ≤ s.limits.supplyThreshold)
          pressBaseline := some ack.presses
          presses := (match r.pressBaseline with
            | none => r.presses
            | some baseline => min (r.presses + (ack.presses - baseline).toNat) 255)
          state := .bound, modeConfirmed := .showing, missCount := 0 } ∧
      (∀ k, k ≠ turn.handle → t.record k = s.record k ∧ t.isChanged k = s.isChanged k) ∧
      t.isChanged turn.handle = true ∧ t.flag .changed = true ∧
      t.offerQueue = s.offerQueue.filter (· ≠ turn.handle) ∧ t.seats = s.seats ∧ t.cells = s.cells ∧
      t.joinQueue = s.joinQueue ∧ t.time = s.time

/-- A GOOD reply to a BOUND, MISSING or LOST record confirms what its LABEL turn sent and no more: a RETIME sets
the period and clears an equal pending period (R119); a MODE sets the mode confirmed, and the hold to 2 if it
enters or leaves DORMANT (R124); a MOVE whose seat is still the move target makes it the seat (R114), as does
any GOOD reply in a PROBE turn (R115): the old seat is FREE. The record is BOUND with miss count 0, found in
MISSING at the offset of the turn, and has the report, whole (R25, R26, R138, R140, R141). Each confirmation, a
change of low supply and a rise of the press accumulator insert the handle, and a POLL of a BOUND record with
none of them and no change of level inserts nothing (R22). Of the other parts only the level and the quality
window can change, in a LABEL turn, and field list and cells are as before but for an UPDATE. -/
def Obligations.GoodReplyConfirmsDirective : Prop :=
  ∀ (s : State) (turn : LabelTurn) (frame : Uplink) (ack : Ack) (corrected : Nat), s.inReset = false →
    s.time.link = .running → s.context = some (.label turn) → turn.phase = .listening →
    classifyUplink frame = .ack (byteOf (turn.handle.val + 1)) turn.tag ack corrected →
    let r := s.record turn.handle
    let low := decide (ack.supply.toNat ≤ s.limits.supplyThreshold)
    let presses := match r.pressBaseline with
      | none => r.presses
      | some baseline => min (r.presses + (ack.presses - baseline).toNat) 255
    r.state = .bound ∨ r.state = .missing ∨ r.state = .lost → r.generation = turn.generation →
    ∃ t, exec (.uplinkFrame frame) s = .next t ∧ t.context = none ∧
      (t.record turn.handle).state = .bound ∧ (t.record turn.handle).missCount = 0 ∧
      (t.record turn.handle).offset = (if r.state = .missing then turn.offset else r.offset) ∧
      (t.record turn.handle).lastHeard = some { superframe := turn.superframe, slot := turn.slot } ∧
      (t.record turn.handle).supply = some ack.supply ∧ (t.record turn.handle).lowSupply = low ∧
      (t.record turn.handle).pressBaseline = some ack.presses ∧ (t.record turn.handle).presses = presses ∧
      (r.state ≠ .bound → t.isChanged turn.handle = true ∧ t.flag .changed = true) ∧
      (low ≠ r.lowSupply ∨ r.presses < presses → t.isChanged turn.handle = true ∧ t.flag .changed = true) ∧
      (r.state = .bound → turn.kind = .label → turn.work = .poll → low = r.lowSupply → presses ≤ r.presses →
        (t.record turn.handle).level = r.level → t.changed = s.changed ∧ t.flag .changed = s.flag .changed) ∧
      t.record turn.handle =
        { r with
          state := .bound, missCount := 0, offset := (t.record turn.handle).offset
          lastHeard := (t.record turn.handle).lastHeard, supply := some ack.supply, lowSupply := low
          pressBaseline := some ack.presses, presses := presses
          period := (t.record turn.handle).period, pendingPeriod := (t.record turn.handle).pendingPeriod
          modeConfirmed := (t.record turn.handle).modeConfirmed, modeHold := (t.record turn.handle).modeHold
          seat := (t.record turn.handle).seat, target := (t.record turn.handle).target
          fields := (t.record turn.handle).fields, level := (t.record turn.handle).level
          windowTurns := (t.record turn.handle).windowTurns, windowBad := (t.record turn.handle).windowBad
          cleanWindows := (t.record turn.handle).cleanWindows } ∧
      ((∀ items, turn.work ≠ .update items) ∨ turn.kind = .probe →
        (t.record turn.handle).fields = r.fields ∧ t.cells = s.cells ∧ t.flag .refused = s.flag .refused) ∧
      (turn.kind = .probe →
        (t.record turn.handle).level = r.level ∧ (t.record turn.handle).windowTurns = r.windowTurns ∧
        (t.record turn.handle).windowBad = r.windowBad ∧ (t.record turn.handle).cleanWindows = r.cleanWindows) ∧
      t.flag .lost = s.flag .lost ∧ t.flag .released = s.flag .released ∧ t.joinQueue = s.joinQueue ∧
      (∀ e, turn.kind = .label → turn.work = .retime e →
        (t.record turn.handle).period = e ∧
        (t.record turn.handle).pendingPeriod = (if r.pendingPeriod = some e then none else r.pendingPeriod) ∧
        t.isChanged turn.handle = true ∧ t.flag .changed = true) ∧
      ((∀ e, turn.work ≠ .retime e) ∨ turn.kind = .probe →
        (t.record turn.handle).period = r.period ∧ (t.record turn.handle).pendingPeriod = r.pendingPeriod) ∧
      (∀ m, turn.kind = .label → turn.work = .mode m →
        (t.record turn.handle).modeConfirmed = m ∧
        (t.record turn.handle).modeHold =
          (if (r.modeConfirmed = .dormant ∧ m ≠ .dormant) ∨ (r.modeConfirmed ≠ .dormant ∧ m = .dormant) then 2
            else r.modeHold) ∧
        t.isChanged turn.handle = true ∧ t.flag .changed = true) ∧
      ((∀ m, turn.work ≠ .mode m) ∨ turn.kind = .probe →
        (t.record turn.handle).modeConfirmed = r.modeConfirmed ∧ (t.record turn.handle).modeHold = r.modeHold) ∧
      (∀ n old, r.target = some n → r.seat = some old →
        (turn.kind = .label ∧ turn.work = .move n) ∨ turn.kind = .probe →
        (t.record turn.handle).seat = some n ∧ (t.record turn.handle).target = none ∧
        t.seats = s.seats.set old.val .free ∧ t.isChanged turn.handle = true ∧ t.flag .changed = true) ∧
      ((turn.kind = .label ∧ ∀ n, turn.work ≠ .move n) ∨ r.target = none →
        (t.record turn.handle).seat = r.seat ∧ (t.record turn.handle).target = r.target ∧ t.seats = s.seats) ∧
      (t.record turn.handle).modeDesired = r.modeDesired ∧ (t.record turn.handle).generation = r.generation ∧
      (t.record turn.handle).nextTag = r.nextTag ∧ t.offerQueue = s.offerQueue ∧
      (∀ k, k ≠ turn.handle → t.record k = s.record k ∧ t.isChanged k = s.isChanged k)

/-- An acknowledged UPDATE, each item for a field id of its own that the record holds: a set item with its
refusal bit clear writes its version as the confirmed version, one with the bit set as the refused version with
REFUSED set; a remove item drops an entry still REMOVING with its cell, and leaves a revived one with no
confirmed version; entries not named are as before, and the handle joins the changed set (R83 to R86). -/
def Obligations.UpdateAcknowledgement : Prop :=
  ∀ (s : State) (turn : LabelTurn) (frame : Uplink) (ack : Ack) (corrected : Nat) (items : List Item),
    s.inReset = false → s.time.link = .running → s.context = some (.label turn) → turn.phase = .listening →
    turn.kind = .label → turn.work = .update items → items ≠ [] → items.length ≤ 6 →
    classifyUplink frame = .ack (byteOf (turn.handle.val + 1)) turn.tag ack corrected →
    FieldInvariant s → CellInvariant s →
    let r := s.record turn.handle
    let idOf (item : Item) : FieldId := match item with | .set id _ => id | .remove id => id
    r.state = .bound ∨ r.state = .missing ∨ r.state = .lost → r.generation = turn.generation →
    (items.map idOf).Nodup →
    ∃ t, exec (.uplinkFrame frame) s = .next t ∧ t.isChanged turn.handle = true ∧ t.flag .changed = true ∧
      (∀ e ∈ r.fields,
        ((∀ item ∈ items, idOf item ≠ e.id) → e ∈ (t.record turn.handle).fields ∧ t.cellOf e = s.cellOf e) ∧
        (∀ (i : Nat) (v : BitVec 8), items[i]? = some (.set e.id v) → ack.refusals.getLsbD i = false →
          { e with confirmed := some v } ∈ (t.record turn.handle).fields ∧ t.cellOf e = s.cellOf e) ∧
        (∀ (i : Nat) (v : BitVec 8), items[i]? = some (.set e.id v) → ack.refusals.getLsbD i = true →
          { e with refused := some v } ∈ (t.record turn.handle).fields ∧ t.cellOf e = s.cellOf e ∧
          t.flag .refused = true) ∧
        (.remove e.id ∈ items → e.removing = true →
          (∀ f ∈ (t.record turn.handle).fields, f.id ≠ e.id) ∧ t.cellOf e = none) ∧
        (.remove e.id ∈ items → e.removing = false →
          { e with confirmed := none } ∈ (t.record turn.handle).fields ∧ t.cellOf e = s.cellOf e)) ∧
      (t.record turn.handle).fields.length ≤ r.fields.length ∧
      (∀ k, k ≠ turn.handle → t.record k = s.record k) ∧ t.seats = s.seats

/-- A release completes. A GOOD reply to a RELEASE of a RELEASING record, in either seat, vacates it as
ACKNOWLEDGED with its seats FREE; a RELEASE that closes NONE or DAMAGED at attempt count 4 vacates it as
UNANSWERED with its seats COOLING 128, below 4 it changes nothing of the record; each completion sets RELEASED
and inserts the handle (R12, R151, R152). -/
def Obligations.ReleaseCompletes : Prop :=
  ∀ (s : State) (turn : LabelTurn), s.inReset = false → s.time.link = .running → s.context = some (.label turn) →
    turn.phase = .listening → turn.work = .release →
    let r := s.record turn.handle
    r.state = .releasing → r.generation = turn.generation →
    let completed (t : State) (outcome : ReleaseOutcome) (left : Seat) : Prop :=
      t.context = none ∧
      t.record turn.handle =
        { Record.vacant with generation := r.generation, serial := r.serial, outcome := outcome } ∧
      (∀ n, t.seatState n = if r.seat = some n ∨ r.target = some n then left else s.seatState n) ∧
      (∀ c : CellNo, t.cells[c.val] = if ∃ e ∈ r.fields, e.cell = c then none else s.cells[c.val]) ∧
      (∀ k, k ≠ turn.handle → t.record k = s.record k) ∧ t.isChanged turn.handle = true ∧
      t.flag .released = true ∧ t.flag .changed = true
    (∀ (frame : Uplink) (ack : Ack) (corrected : Nat),
      classifyUplink frame = .ack (byteOf (turn.handle.val + 1)) turn.tag ack corrected →
      ∃ t, exec (.uplinkFrame frame) s = .next t ∧ completed t .acknowledged .free) ∧
    (∀ row, row = .plannedClose ∨ (∃ frame, row = .uplinkFrame frame ∧ classifyUplink frame = .damaged) →
      (4 ≤ r.attempts → ∃ t, exec row s = .next t ∧ completed t .unanswered (.cooling 128)) ∧
      (r.attempts < 4 → ∃ t, exec row s = .next t ∧ t.context = none ∧ t.records = s.records ∧ t.seats = s.seats ∧
        t.cells = s.cells ∧ t.changed = s.changed ∧ t.flag .released = s.flag .released))

/-- A turn of another frame kind that closes on a RELEASING record. A GOOD reply gives its report and nothing
more; NONE and DAMAGED have no effect on the record, whatever the attempt count (R154). -/
def Obligations.OtherFrameOnReleasingRecord : Prop :=
  ∀ (s : State) (turn : LabelTurn), s.inReset = false → s.time.link = .running → s.context = some (.label turn) →
    turn.phase = .listening → turn.work ≠ .release →
    let r := s.record turn.handle
    r.state = .releasing → r.generation = turn.generation →
    let kept (t : State) : Prop :=
      t.context = none ∧ (∀ k, k ≠ turn.handle → t.record k = s.record k ∧ t.isChanged k = s.isChanged k) ∧
      t.seats = s.seats ∧ t.cells = s.cells ∧ t.offerQueue = s.offerQueue ∧ t.joinQueue = s.joinQueue ∧
      t.flag .released = s.flag .released ∧ t.flag .refused = s.flag .refused
    (∀ (frame : Uplink) (ack : Ack) (corrected : Nat),
      classifyUplink frame = .ack (byteOf (turn.handle.val + 1)) turn.tag ack corrected →
      ∃ t, exec (.uplinkFrame frame) s = .next t ∧ kept t ∧
        t.record turn.handle =
          { r with
            lastHeard := some { superframe := turn.superframe, slot := turn.slot }
            supply := some ack.supply
            lowSupply := decide (ack.supply.toNat ≤ s.limits.supplyThreshold)
            pressBaseline := some ack.presses
            presses := (match r.pressBaseline with
              | none => r.presses
              | some baseline => min (r.presses + (ack.presses - baseline).toNat) 255) }) ∧
    (∀ row, row = .plannedClose ∨ (∃ frame, row = .uplinkFrame frame ∧ classifyUplink frame = .damaged) →
      ∃ t, exec row s = .next t ∧ kept t ∧ t.record turn.handle = r ∧ t.changed = s.changed)

/-- A close whose record is FREE or of another generation is void: no record, seat, cell, queue or membership of
the changed set changes, whatever the reply, and the context goes; the census alone counts the outcome (R2, R66,
R145). The census at any close, void or not: in COUNTING the count of the outcome goes up by one and a GOOD
close adds its corrected errors to the error sum, each saturating at 65535, and the turns remaining go down by
one; when they reach 0 the running counts are latched, the census is IDLE and CENSUS_DONE is set; in IDLE it
changes nothing (R145). That it counts the turn that drains in STOPPING is the model's reading (log 18). -/
def Obligations.VoidCloseChangesNoRecord : Prop :=
  (∀ (s : State) (turn : LabelTurn) (row : Instr), s.inReset = false → s.context = some (.label turn) →
    turn.phase = .listening →
    (s.record turn.handle).state = .free ∨ (s.record turn.handle).generation ≠ turn.generation →
    row = .plannedClose ∨ (∃ frame, row = .uplinkFrame frame ∧ (classifyUplink frame = .damaged ∨
      ∃ ack corrected, classifyUplink frame = .ack (byteOf (turn.handle.val + 1)) turn.tag ack corrected)) →
    ∃ t, exec row s = .next t ∧ t.context = none ∧ t.records = s.records ∧ t.changed = s.changed ∧
      t.cells = s.cells ∧ t.seats = s.seats ∧ t.offerQueue = s.offerQueue ∧ t.joinQueue = s.joinQueue ∧
      (s.census.state = .idle → t.census = s.census) ∧
      (s.census.state = .counting → t.census.remaining = s.census.remaining - 1)) ∧
  (∀ (s : State) (turn : LabelTurn) (row : Instr) (counts : CensusCounts), s.inReset = false →
    s.context = some (.label turn) → turn.phase = .listening →
    let c := s.census.running
    (row = .plannedClose ∧ counts = { c with noReply := min (c.noReply + 1) 65535 }) ∨
      (∃ frame, row = .uplinkFrame frame ∧ classifyUplink frame = .damaged ∧
        counts = { c with damaged := min (c.damaged + 1) 65535 }) ∨
      (∃ frame ack corrected, row = .uplinkFrame frame ∧
        classifyUplink frame = .ack (byteOf (turn.handle.val + 1)) turn.tag ack corrected ∧
        counts = { c with good := min (c.good + 1) 65535, errorSum := min (c.errorSum + corrected) 65535 }) →
    ∃ t, exec row s = .next t ∧
      (s.census.state = .idle → t.census = s.census ∧ t.flag .censusDone = s.flag .censusDone) ∧
      (s.census.state = .counting → 1 < s.census.remaining →
        t.census = { s.census with remaining := s.census.remaining - 1, running := counts } ∧
        t.flag .censusDone = s.flag .censusDone) ∧
      (s.census.state = .counting → s.census.remaining ≤ 1 →
        t.census = { state := .idle, remaining := 0, running := counts, latched := counts } ∧
        t.flag .censusDone = true))

/-- The quality window. A LABEL turn counts when it closes GOOD or DAMAGED on a BOUND, MISSING or LOST record, or
NONE and charged on a BOUND or MISSING one; it is bad unless it is GOOD with at most E corrected errors, whatever
the turn carried (R132). Below the window length the counts go up and the level and the clean windows stay. At
it the counts become 0; under AUTOMATIC, at or above the raise threshold the level goes up by one, to 3 at most,
and the clean windows become 0; with no bad turn the clean windows count it, and at the clean-windows limit the
level goes down by one if it is above the floor and they become 0; else they become 0 (R133); under MANUAL the
level stays and they become 0 (R134). A change of level inserts the handle. A DAMAGED close on a BOUND record
changes no other part of it (R131). -/
def Obligations.QualityWindowEnds : Prop :=
  ∀ (s : State) (turn : LabelTurn) (row : Instr) (bad : Nat), s.inReset = false → s.time.link = .running →
    s.context = some (.label turn) → turn.phase = .listening → turn.kind = .label →
    let r := s.record turn.handle
    let live : Prop := r.state = .bound ∨ r.state = .missing
    let damaged : Prop := ∃ frame, row = .uplinkFrame frame ∧ classifyUplink frame = .damaged
    let total := r.windowBad + bad
    r.generation = turn.generation →
    ((live ∨ r.state = .lost) ∧ damaged ∧ bad = 1) ∨
      (live ∧ r.passesCadence turn.handle turn.superframe ∧ row = .plannedClose ∧ bad = 1) ∨
      ((live ∨ r.state = .lost) ∧ ∃ frame ack corrected, row = .uplinkFrame frame ∧
        classifyUplink frame = .ack (byteOf (turn.handle.val + 1)) turn.tag ack corrected ∧
        bad = if s.limits.errorThreshold < corrected then 1 else 0) →
    ∃ (t : State) (v : Record), exec row s = .next t ∧ t.record turn.handle = v ∧
      (r.windowTurns + 1 < s.limits.windowLength →
        v.windowTurns = r.windowTurns + 1 ∧ v.windowBad = total ∧ v.level = r.level ∧
          v.cleanWindows = r.cleanWindows) ∧
      (s.limits.windowLength ≤ r.windowTurns + 1 →
        v.windowTurns = 0 ∧ v.windowBad = 0 ∧
        (r.policy = .manual → v.level = r.level ∧ v.cleanWindows = 0) ∧
        (r.policy = .automatic →
          (s.limits.raiseThreshold ≤ total → v.level.val = min (r.level.val + 1) 3 ∧ v.cleanWindows = 0) ∧
          (total < s.limits.raiseThreshold → total ≠ 0 → v.level = r.level ∧ v.cleanWindows = 0) ∧
          (total < s.limits.raiseThreshold → total = 0 →
            (r.cleanWindows + 1 < s.limits.cleanToLower →
              v.level = r.level ∧ v.cleanWindows = r.cleanWindows + 1) ∧
            (s.limits.cleanToLower ≤ r.cleanWindows + 1 →
              v.cleanWindows = 0 ∧ (r.floor < r.level → v.level.val + 1 = r.level.val) ∧
              (r.level ≤ r.floor → v.level = r.level))))) ∧
      (v.level ≠ r.level → t.isChanged turn.handle = true ∧ t.flag .changed = true) ∧
      v.policy = r.policy ∧ v.floor = r.floor ∧
      (damaged → t.lateRef = s.lateRef ∧ (r.state = .bound →
        v = { r with
          windowTurns := v.windowTurns, windowBad := v.windowBad, level := v.level, cleanWindows := v.cleanWindows } ∧
        (v.level = r.level → t.changed = s.changed))) ∧
      ∀ k, k ≠ turn.handle → t.record k = s.record k

/-! ## Joins -/

/-- A JOIN in the join window from a serial that no record that is not FREE carries: an entry of the join queue
is refreshed in place, else appended with JOIN_HEARD, else dropped with JOIN_DROPPED; a frame that is no JOIN
with address 0 and a valid serial is discarded (R96, R97, R104). -/
def Obligations.JoinFromUnknownSerial : Prop :=
  ∀ (s : State) (frame : Uplink) (n : BitVec 16), s.inReset = false → s.context = some (.joinWindow n) →
    (∀ (serial : BitVec 32) (supply : BitVec 4) (corrected : Nat),
      classifyUplink frame = .join 0 serial supply corrected → serial ≠ 0 → serial ≠ 0xFFFFFFFF →
      (∀ h, (s.record h).state ≠ .free → (s.record h).serial ≠ serial) →
      ((∃ e ∈ s.joinQueue, e.serial = serial) →
        exec (.uplinkFrame frame) s = .next
          { s with
            joinQueue := s.joinQueue.map fun e =>
              if e.serial = serial then
                { serial := e.serial, supply := supply, heard := min (e.heard + 1) 255,
                  lastHeard := s.time.superframe, corrected := corrected }
              else e }) ∧
      ((∀ e ∈ s.joinQueue, e.serial ≠ serial) → s.joinQueue.length < 8 →
        exec (.uplinkFrame frame) s = .next
          (State.setFlag
            { s with
              joinQueue := s.joinQueue ++
                [{ serial := serial, supply := supply, heard := 1, lastHeard := s.time.superframe,
                   corrected := corrected }] } .joinHeard)) ∧
      ((∀ e ∈ s.joinQueue, e.serial ≠ serial) → 8 ≤ s.joinQueue.length →
        exec (.uplinkFrame frame) s = .next (s.setFlag .joinDropped))) ∧
    ((∀ serial supply corrected, classifyUplink frame ≠ .join 0 serial supply corrected) →
      exec (.uplinkFrame frame) s = .next s) ∧
    (∀ serial supply corrected, classifyUplink frame = .join 0 serial supply corrected →
      serial = 0 ∨ serial = 0xFFFFFFFF → exec (.uplinkFrame frame) s = .next s)

/-- A JOIN in the join window from the serial of a record that is not FREE. OFFERED: the attempt count becomes
0, the report is taken, and the handle is inserted only if low supply changed (R98). BOUND, MISSING or LOST: the
record rejoins with the changes of R100 and R101, at the tail of the offer queue, its old seat COOLING 128 if it
had a move target. RELEASING: it becomes FREE, ACKNOWLEDGED, its seats FREE, with RELEASED set (R99). -/
def Obligations.JoinFromKnownSerial : Prop :=
  ∀ (s : State) (frame : Uplink) (n : BitVec 16) (h : Handle) (supply : BitVec 4) (corrected : Nat),
    s.inReset = false → s.context = some (.joinWindow n) → SerialInvariant s →
    let r := s.record h
    classifyUplink frame = .join 0 r.serial supply corrected → r.state ≠ .free →
    let heard : Heard := { superframe := s.time.superframe, slot := 0 }
    let low := decide (supply.toNat ≤ s.limits.supplyThreshold)
    ∃ t, exec (.uplinkFrame frame) s = .next t ∧ (∀ k, k ≠ h → t.record k = s.record k) ∧
      (r.state = .offered →
        t.record h = { r with attempts := 0, lastHeard := some heard, supply := some supply, lowSupply := low } ∧
        t.offerQueue = s.offerQueue ∧ t.joinQueue = s.joinQueue ∧ t.seats = s.seats ∧ t.cells = s.cells ∧
        t.isChanged h = (s.isChanged h || (r.lowSupply != low))) ∧
      (r.state = .bound ∨ r.state = .missing ∨ r.state = .lost →
        t.record h =
          { r with
            state := .offered, attempts := 0, seat := r.target.or r.seat, target := none,
            period := r.pendingPeriod.getD r.period, pendingPeriod := none, modeConfirmed := .showing, modeHold := 0,
            missCount := 0, huntMisses := 0, offset := .centered, pressBaseline := none,
            lastHeard := some heard, supply := some supply, lowSupply := low,
            fields := (r.fields.filter fun e => !e.removing).map fun e =>
              { e with confirmed := none, refused := none, sent := false } } ∧
        t.offerQueue = s.offerQueue ++ [h] ∧ t.joinQueue = s.joinQueue ∧
        (∀ old, r.seat = some old → r.target ≠ none → t.seats = s.seats.set old.val (.cooling 128)) ∧
        (r.target = none → t.seats = s.seats) ∧
        (∀ c : CellNo,
          t.cells[c.val] = if ∃ e ∈ r.fields, e.removing = true ∧ e.cell = c then none else s.cells[c.val]) ∧
        t.isChanged h = true ∧ t.flag .changed = true ∧ t.flag .lost = s.flag .lost ∧
        t.flag .released = s.flag .released) ∧
      (r.state = .releasing →
        t.record h = { Record.vacant with generation := r.generation, serial := r.serial, outcome := .acknowledged } ∧
        (∀ m, t.seatState m = if r.seat = some m ∨ r.target = some m then .free else s.seatState m) ∧
        t.isChanged h = true ∧ t.flag .released = true ∧ t.flag .changed = true ∧
        (s.joinQueue.length < 8 → t.flag .joinHeard = true ∧ ∃ e, t.joinQueue = s.joinQueue ++ [e] ∧
          e.serial = r.serial ∧ e.heard = 1 ∧ e.supply = supply) ∧
        (8 ≤ s.joinQueue.length → t.joinQueue = s.joinQueue ∧ t.flag .joinDropped = true))

/-! ## Invariants -/

/-- Attention, the 16-bit counts and the outputs in reset: every step keeps them (R60, R65, R180, R183). The
link engine, its timing and the reply window inside its turn: every step keeps them (R28, R32 to R34, R36, R37,
R40, R51). -/
def Obligations.StepKeepsPortAndLink : Prop :=
  (∀ s t : State, PortInvariant s → step s = .next t → PortInvariant t) ∧
  (∀ s t : State, LinkInvariant s → step s = .next t → LinkInvariant t)

/-- The ranges of every record, the level not below the floor under AUTOMATIC, the limits and the census: every
step keeps them (1.1, R128, R142, R144). -/
def Obligations.StepKeepsRanges : Prop :=
  ∀ s t : State, RangeInvariant s → step s = .next t → RangeInvariant t

/-- The offer queue holds exactly the OFFERED records, each once: every step keeps it (R91). Serials are valid
and distinct among the records that are not FREE, and the join queue holds others: every step keeps it (R3,
R103). -/
def Obligations.StepKeepsQueues : Prop :=
  (∀ s t : State, OfferInvariant s → step s = .next t → OfferInvariant t) ∧
  (∀ s t : State, SerialInvariant s → step s = .next t → SerialInvariant t)

/-- An open edit names a record that is OFFERED, BOUND, MISSING or LOST, and records and seats agree: every step
keeps both (R5, R43, R157, R159). -/
def Obligations.StepKeepsSeats : Prop :=
  ∀ s t : State, EditInvariant s → SeatInvariant s → step s = .next t → EditInvariant t ∧ SeatInvariant t

/-- Field lists are in order and the cells in use are exactly those of the entries: every step keeps both (R15,
R18, R81). -/
def Obligations.StepKeepsFieldsAndCells : Prop :=
  ∀ s t : State, EditInvariant s → FieldInvariant s → CellInvariant s → step s = .next t →
    FieldInvariant t ∧ CellInvariant t

/-- The part after power-on satisfies every invariant. -/
def Obligations.ResetStateSatisfiesInvariants : Prop :=
  PortInvariant State.reset ∧ LinkInvariant State.reset ∧ RangeInvariant State.reset ∧ OfferInvariant State.reset ∧
    SerialInvariant State.reset ∧ EditInvariant State.reset ∧ SeatInvariant State.reset ∧
    FieldInvariant State.reset ∧ CellInvariant State.reset

/-! ## Encoding -/

/-- The bytes of a transaction and the row it ends in determine each other: every byte string is the encoding of
the row it decodes to, and every well-formed row that ends a transaction is what its bytes decode to (R172,
R173, 11.3). -/
def Obligations.TransactionsRoundTrip : Prop :=
  (∀ bytes : List Byte, encodeTransaction (decodeTransaction bytes) = some bytes) ∧
  ∀ (i : Instr) (bytes : List Byte), i.wf = true → encodeTransaction i = some bytes → decodeTransaction bytes = i
end

