-- ==== Sys2Proof/Laws/Operands.lean ====
section
/-! SUPPORT. Parameters read back from the bytes that carry them, and the version rule. -/

namespace Sys2Proof.Machine

/-- A number below `n` is read from its byte. -/
theorem below?_byteOf {n : Nat} (hn : n ≤ 256) (x : Fin n) : below? n (byteOf x.val) = some x := by
  have hx : x.val < 256 := lt_of_lt_of_le x.isLt hn
  simp [below?, byteOf, Nat.mod_eq_of_lt hx]

/-- No number below `n` is read from a byte at or above `n`. -/
theorem below?_none {n : Nat} {b : Byte} (h : n ≤ b.toNat) : below? n b = none := by
  simp [below?, Nat.not_lt.mpr h]

@[simp] theorem handle?_byteOf (h : Handle) : handle? (byteOf h.val) = some h := below?_byteOf (by decide) h

@[simp] theorem exponent?_byteOf (e : Exponent) : exponent? (byteOf e.val) = some e := below?_byteOf (by decide) e

@[simp] theorem level?_byteOf (l : Level) : level? (byteOf l.val) = some l := below?_byteOf (by decide) l

theorem handle?_none {b : Byte} (h : 160 ≤ b.toNat) : handle? b = none := below?_none h

theorem exponent?_none {b : Byte} (h : 7 ≤ b.toNat) : exponent? b = none := below?_none h

theorem level?_none {b : Byte} (h : 4 ≤ b.toNat) : level? b = none := below?_none h

/-- A field id other than 0 is read from its byte. -/
theorem fieldId?_byteOf {id : FieldId} (h : id ≠ 0) : fieldId? (byteOf id.val) = some id := by
  revert h; revert id; decide

/-- A seat is read from its byte. -/
theorem seatRequest?_byteOf (n : SeatNo) : seatRequest? (byteOf n.val) = some (.named n) := by
  have h : byteOf n.val ≠ 0xFF := by
    intro e
    have := congrArg BitVec.toNat e
    simp [byteOf] at this
    omega
  simp only [seatRequest?, if_neg h, below?_byteOf (by decide : 189 ≤ 256) n, Option.map_some]

/-- The byte of any seat. -/
theorem seatRequest?_any : seatRequest? 0xFF = some .any := rfl

/-- A handle byte names its handle or none. -/
theorem handle?_some {b : Byte} {h : Handle} (e : handle? b = some h) : b = byteOf h.val := by
  simp only [handle?, below?] at e
  split at e
  · cases e; simp [byteOf]
  · cases e

/-- The stepped version is the first of the four that follow that is none of at most three passed over (R73). -/
theorem nextVersion_spec (d : BitVec 8) (avoid : List (BitVec 8)) (h : avoid.length ≤ 3) :
    ∃ n : Nat, 1 ≤ n ∧ n ≤ 4 ∧ nextVersion d avoid = d + BitVec.ofNat 8 n ∧ nextVersion d avoid ∉ avoid ∧
      ∀ m, 1 ≤ m → m < n → d + BitVec.ofNat 8 m ∈ avoid := by
  have four : ¬(d + 1#8 ∈ avoid ∧ d + 2#8 ∈ avoid ∧ d + 3#8 ∈ avoid ∧ d + 4#8 ∈ avoid) := by
    rintro ⟨h1, h2, h3, h4⟩
    have key : ∀ a b : BitVec 8, a ≠ b → d + a ≠ d + b := fun a b hab e => hab (by simpa using e)
    have hnd : [d + 1#8, d + 2#8, d + 3#8, d + 4#8].Nodup := by
      simp only [List.nodup_cons, List.mem_cons, List.not_mem_nil, or_false, not_or, not_false_eq_true, List.nodup_nil,
        and_true]
      exact ⟨⟨key _ _ (by decide), key _ _ (by decide), key _ _ (by decide)⟩,
        ⟨key _ _ (by decide), key _ _ (by decide)⟩, key _ _ (by decide)⟩
    have hsub : [d + 1#8, d + 2#8, d + 3#8, d + 4#8] ⊆ avoid := by
      intro v hv
      simp only [List.mem_cons, List.not_mem_nil, or_false] at hv
      rcases hv with rfl | rfl | rfl | rfl <;> assumption
    have := (List.subperm_of_subset hnd hsub).length_le
    simp at this
    omega
  by_cases h1 : d + 1#8 ∈ avoid
  · by_cases h2 : d + 2#8 ∈ avoid
    · by_cases h3 : d + 3#8 ∈ avoid
      · have h4 : d + 4#8 ∉ avoid := fun h4 => four ⟨h1, h2, h3, h4⟩
        have e : nextVersion d avoid = d + 4#8 := by simp [nextVersion, h1, h2, h3, h4]
        exact ⟨4, by decide, by decide, e, e ▸ h4, fun m hm hn => by interval_cases m <;> assumption⟩
      · have e : nextVersion d avoid = d + 3#8 := by simp [nextVersion, h1, h2, h3]
        exact ⟨3, by decide, by decide, e, e ▸ h3, fun m hm hn => by interval_cases m <;> assumption⟩
    · have e : nextVersion d avoid = d + 2#8 := by simp [nextVersion, h1, h2]
      exact ⟨2, by decide, by decide, e, e ▸ h2, fun m hm hn => by interval_cases m; assumption⟩
  · have e : nextVersion d avoid = d + 1#8 := by simp [nextVersion, h1]
    exact ⟨1, by decide, by decide, e, e ▸ h1, fun m hm hn => by omega⟩

end Sys2Proof.Machine
end

