-- ==== Sys2Proof/Laws/State.lean ====
section
/-! SUPPORT. What each update of the state leaves in each field, true by rfl: a proof about the state cites these and
unfolds no record update. -/

namespace Sys2Proof.Machine

variable (s : State)

/-! ### setRecord -/

@[simp] theorem setRecord_records (h : Handle) (r : Record) : (s.setRecord h r).records = s.records.set h.val r := rfl
@[simp] theorem setRecord_changed (h : Handle) (r : Record) : (s.setRecord h r).changed = s.changed := rfl
@[simp] theorem setRecord_cells (h : Handle) (r : Record) : (s.setRecord h r).cells = s.cells := rfl
@[simp] theorem setRecord_seats (h : Handle) (r : Record) : (s.setRecord h r).seats = s.seats := rfl
@[simp] theorem setRecord_time (h : Handle) (r : Record) : (s.setRecord h r).time = s.time := rfl
@[simp] theorem setRecord_context (h : Handle) (r : Record) : (s.setRecord h r).context = s.context := rfl
@[simp] theorem setRecord_lateRef (h : Handle) (r : Record) : (s.setRecord h r).lateRef = s.lateRef := rfl
@[simp] theorem setRecord_frameOut (h : Handle) (r : Record) : (s.setRecord h r).frameOut = s.frameOut := rfl
@[simp] theorem setRecord_ready (h : Handle) (r : Record) : (s.setRecord h r).ready = s.ready := rfl
@[simp] theorem setRecord_limits (h : Handle) (r : Record) : (s.setRecord h r).limits = s.limits := rfl
@[simp] theorem setRecord_census (h : Handle) (r : Record) : (s.setRecord h r).census = s.census := rfl
@[simp] theorem setRecord_joinQueue (h : Handle) (r : Record) : (s.setRecord h r).joinQueue = s.joinQueue := rfl
@[simp] theorem setRecord_offerQueue (h : Handle) (r : Record) : (s.setRecord h r).offerQueue = s.offerQueue := rfl
@[simp] theorem setRecord_edit (h : Handle) (r : Record) : (s.setRecord h r).edit = s.edit := rfl
@[simp] theorem setRecord_port (h : Handle) (r : Record) : (s.setRecord h r).port = s.port := rfl
@[simp] theorem setRecord_inReset (h : Handle) (r : Record) : (s.setRecord h r).inReset = s.inReset := rfl
@[simp] theorem setRecord_poweredUp (h : Handle) (r : Record) : (s.setRecord h r).poweredUp = s.poweredUp := rfl
@[simp] theorem setRecord_pending (h : Handle) (r : Record) : (s.setRecord h r).pending = s.pending := rfl
@[simp] theorem seatState_setRecord (h : Handle) (r : Record) (k : SeatNo) :
    (s.setRecord h r).seatState k = s.seatState k := rfl
@[simp] theorem isChanged_setRecord (h : Handle) (r : Record) (k : Handle) :
    (s.setRecord h r).isChanged k = s.isChanged k := rfl
@[simp] theorem cellValue_setRecord (h : Handle) (r : Record) (k : CellNo) :
    (s.setRecord h r).cellValue k = s.cellValue k := rfl

/-! ### unmarkChanged -/

@[simp] theorem unmarkChanged_records (h : Handle) : (s.unmarkChanged h).records = s.records := rfl
@[simp] theorem unmarkChanged_changed (h : Handle) : (s.unmarkChanged h).changed = s.changed.set h.val false := rfl
@[simp] theorem unmarkChanged_cells (h : Handle) : (s.unmarkChanged h).cells = s.cells := rfl
@[simp] theorem unmarkChanged_seats (h : Handle) : (s.unmarkChanged h).seats = s.seats := rfl
@[simp] theorem unmarkChanged_time (h : Handle) : (s.unmarkChanged h).time = s.time := rfl
@[simp] theorem unmarkChanged_context (h : Handle) : (s.unmarkChanged h).context = s.context := rfl
@[simp] theorem unmarkChanged_lateRef (h : Handle) : (s.unmarkChanged h).lateRef = s.lateRef := rfl
@[simp] theorem unmarkChanged_frameOut (h : Handle) : (s.unmarkChanged h).frameOut = s.frameOut := rfl
@[simp] theorem unmarkChanged_ready (h : Handle) : (s.unmarkChanged h).ready = s.ready := rfl
@[simp] theorem unmarkChanged_limits (h : Handle) : (s.unmarkChanged h).limits = s.limits := rfl
@[simp] theorem unmarkChanged_census (h : Handle) : (s.unmarkChanged h).census = s.census := rfl
@[simp] theorem unmarkChanged_joinQueue (h : Handle) : (s.unmarkChanged h).joinQueue = s.joinQueue := rfl
@[simp] theorem unmarkChanged_offerQueue (h : Handle) : (s.unmarkChanged h).offerQueue = s.offerQueue := rfl
@[simp] theorem unmarkChanged_edit (h : Handle) : (s.unmarkChanged h).edit = s.edit := rfl
@[simp] theorem unmarkChanged_port (h : Handle) : (s.unmarkChanged h).port = s.port := rfl
@[simp] theorem unmarkChanged_inReset (h : Handle) : (s.unmarkChanged h).inReset = s.inReset := rfl
@[simp] theorem unmarkChanged_poweredUp (h : Handle) : (s.unmarkChanged h).poweredUp = s.poweredUp := rfl
@[simp] theorem unmarkChanged_pending (h : Handle) : (s.unmarkChanged h).pending = s.pending := rfl
@[simp] theorem record_unmarkChanged (h : Handle) (k : Handle) : (s.unmarkChanged h).record k = s.record k := rfl
@[simp] theorem seatState_unmarkChanged (h : Handle) (k : SeatNo) :
    (s.unmarkChanged h).seatState k = s.seatState k := rfl
@[simp] theorem cellValue_unmarkChanged (h : Handle) (k : CellNo) :
    (s.unmarkChanged h).cellValue k = s.cellValue k := rfl

/-! ### writeCell -/

@[simp] theorem writeCell_records (c : CellNo) (v : List Byte) : (s.writeCell c v).records = s.records := rfl
@[simp] theorem writeCell_changed (c : CellNo) (v : List Byte) : (s.writeCell c v).changed = s.changed := rfl
@[simp] theorem writeCell_cells (c : CellNo) (v : List Byte) :
    (s.writeCell c v).cells = s.cells.set c.val (some v) := rfl
@[simp] theorem writeCell_seats (c : CellNo) (v : List Byte) : (s.writeCell c v).seats = s.seats := rfl
@[simp] theorem writeCell_time (c : CellNo) (v : List Byte) : (s.writeCell c v).time = s.time := rfl
@[simp] theorem writeCell_context (c : CellNo) (v : List Byte) : (s.writeCell c v).context = s.context := rfl
@[simp] theorem writeCell_lateRef (c : CellNo) (v : List Byte) : (s.writeCell c v).lateRef = s.lateRef := rfl
@[simp] theorem writeCell_frameOut (c : CellNo) (v : List Byte) : (s.writeCell c v).frameOut = s.frameOut := rfl
@[simp] theorem writeCell_ready (c : CellNo) (v : List Byte) : (s.writeCell c v).ready = s.ready := rfl
@[simp] theorem writeCell_limits (c : CellNo) (v : List Byte) : (s.writeCell c v).limits = s.limits := rfl
@[simp] theorem writeCell_census (c : CellNo) (v : List Byte) : (s.writeCell c v).census = s.census := rfl
@[simp] theorem writeCell_joinQueue (c : CellNo) (v : List Byte) : (s.writeCell c v).joinQueue = s.joinQueue := rfl
@[simp] theorem writeCell_offerQueue (c : CellNo) (v : List Byte) : (s.writeCell c v).offerQueue = s.offerQueue := rfl
@[simp] theorem writeCell_edit (c : CellNo) (v : List Byte) : (s.writeCell c v).edit = s.edit := rfl
@[simp] theorem writeCell_port (c : CellNo) (v : List Byte) : (s.writeCell c v).port = s.port := rfl
@[simp] theorem writeCell_inReset (c : CellNo) (v : List Byte) : (s.writeCell c v).inReset = s.inReset := rfl
@[simp] theorem writeCell_poweredUp (c : CellNo) (v : List Byte) : (s.writeCell c v).poweredUp = s.poweredUp := rfl
@[simp] theorem writeCell_pending (c : CellNo) (v : List Byte) : (s.writeCell c v).pending = s.pending := rfl
@[simp] theorem record_writeCell (c : CellNo) (v : List Byte) (k : Handle) :
    (s.writeCell c v).record k = s.record k := rfl
@[simp] theorem seatState_writeCell (c : CellNo) (v : List Byte) (k : SeatNo) :
    (s.writeCell c v).seatState k = s.seatState k := rfl
@[simp] theorem isChanged_writeCell (c : CellNo) (v : List Byte) (k : Handle) :
    (s.writeCell c v).isChanged k = s.isChanged k := rfl

/-! ### freeCell -/

@[simp] theorem freeCell_records (c : CellNo) : (s.freeCell c).records = s.records := rfl
@[simp] theorem freeCell_changed (c : CellNo) : (s.freeCell c).changed = s.changed := rfl
@[simp] theorem freeCell_cells (c : CellNo) : (s.freeCell c).cells = s.cells.set c.val none := rfl
@[simp] theorem freeCell_seats (c : CellNo) : (s.freeCell c).seats = s.seats := rfl
@[simp] theorem freeCell_time (c : CellNo) : (s.freeCell c).time = s.time := rfl
@[simp] theorem freeCell_context (c : CellNo) : (s.freeCell c).context = s.context := rfl
@[simp] theorem freeCell_lateRef (c : CellNo) : (s.freeCell c).lateRef = s.lateRef := rfl
@[simp] theorem freeCell_frameOut (c : CellNo) : (s.freeCell c).frameOut = s.frameOut := rfl
@[simp] theorem freeCell_ready (c : CellNo) : (s.freeCell c).ready = s.ready := rfl
@[simp] theorem freeCell_limits (c : CellNo) : (s.freeCell c).limits = s.limits := rfl
@[simp] theorem freeCell_census (c : CellNo) : (s.freeCell c).census = s.census := rfl
@[simp] theorem freeCell_joinQueue (c : CellNo) : (s.freeCell c).joinQueue = s.joinQueue := rfl
@[simp] theorem freeCell_offerQueue (c : CellNo) : (s.freeCell c).offerQueue = s.offerQueue := rfl
@[simp] theorem freeCell_edit (c : CellNo) : (s.freeCell c).edit = s.edit := rfl
@[simp] theorem freeCell_port (c : CellNo) : (s.freeCell c).port = s.port := rfl
@[simp] theorem freeCell_inReset (c : CellNo) : (s.freeCell c).inReset = s.inReset := rfl
@[simp] theorem freeCell_poweredUp (c : CellNo) : (s.freeCell c).poweredUp = s.poweredUp := rfl
@[simp] theorem freeCell_pending (c : CellNo) : (s.freeCell c).pending = s.pending := rfl
@[simp] theorem record_freeCell (c : CellNo) (k : Handle) : (s.freeCell c).record k = s.record k := rfl
@[simp] theorem seatState_freeCell (c : CellNo) (k : SeatNo) : (s.freeCell c).seatState k = s.seatState k := rfl
@[simp] theorem isChanged_freeCell (c : CellNo) (k : Handle) : (s.freeCell c).isChanged k = s.isChanged k := rfl

/-! ### setSeat -/

@[simp] theorem setSeat_records (n : SeatNo) (v : Seat) : (s.setSeat n v).records = s.records := rfl
@[simp] theorem setSeat_changed (n : SeatNo) (v : Seat) : (s.setSeat n v).changed = s.changed := rfl
@[simp] theorem setSeat_cells (n : SeatNo) (v : Seat) : (s.setSeat n v).cells = s.cells := rfl
@[simp] theorem setSeat_seats (n : SeatNo) (v : Seat) : (s.setSeat n v).seats = s.seats.set n.val v := rfl
@[simp] theorem setSeat_time (n : SeatNo) (v : Seat) : (s.setSeat n v).time = s.time := rfl
@[simp] theorem setSeat_context (n : SeatNo) (v : Seat) : (s.setSeat n v).context = s.context := rfl
@[simp] theorem setSeat_lateRef (n : SeatNo) (v : Seat) : (s.setSeat n v).lateRef = s.lateRef := rfl
@[simp] theorem setSeat_frameOut (n : SeatNo) (v : Seat) : (s.setSeat n v).frameOut = s.frameOut := rfl
@[simp] theorem setSeat_ready (n : SeatNo) (v : Seat) : (s.setSeat n v).ready = s.ready := rfl
@[simp] theorem setSeat_limits (n : SeatNo) (v : Seat) : (s.setSeat n v).limits = s.limits := rfl
@[simp] theorem setSeat_census (n : SeatNo) (v : Seat) : (s.setSeat n v).census = s.census := rfl
@[simp] theorem setSeat_joinQueue (n : SeatNo) (v : Seat) : (s.setSeat n v).joinQueue = s.joinQueue := rfl
@[simp] theorem setSeat_offerQueue (n : SeatNo) (v : Seat) : (s.setSeat n v).offerQueue = s.offerQueue := rfl
@[simp] theorem setSeat_edit (n : SeatNo) (v : Seat) : (s.setSeat n v).edit = s.edit := rfl
@[simp] theorem setSeat_port (n : SeatNo) (v : Seat) : (s.setSeat n v).port = s.port := rfl
@[simp] theorem setSeat_inReset (n : SeatNo) (v : Seat) : (s.setSeat n v).inReset = s.inReset := rfl
@[simp] theorem setSeat_poweredUp (n : SeatNo) (v : Seat) : (s.setSeat n v).poweredUp = s.poweredUp := rfl
@[simp] theorem setSeat_pending (n : SeatNo) (v : Seat) : (s.setSeat n v).pending = s.pending := rfl
@[simp] theorem record_setSeat (n : SeatNo) (v : Seat) (k : Handle) : (s.setSeat n v).record k = s.record k := rfl
@[simp] theorem isChanged_setSeat (n : SeatNo) (v : Seat) (k : Handle) :
    (s.setSeat n v).isChanged k = s.isChanged k := rfl
@[simp] theorem cellValue_setSeat (n : SeatNo) (v : Seat) (k : CellNo) :
    (s.setSeat n v).cellValue k = s.cellValue k := rfl

/-! ### leaveOfferQueue -/

@[simp] theorem leaveOfferQueue_records (h : Handle) : (s.leaveOfferQueue h).records = s.records := rfl
@[simp] theorem leaveOfferQueue_changed (h : Handle) : (s.leaveOfferQueue h).changed = s.changed := rfl
@[simp] theorem leaveOfferQueue_cells (h : Handle) : (s.leaveOfferQueue h).cells = s.cells := rfl
@[simp] theorem leaveOfferQueue_seats (h : Handle) : (s.leaveOfferQueue h).seats = s.seats := rfl
@[simp] theorem leaveOfferQueue_time (h : Handle) : (s.leaveOfferQueue h).time = s.time := rfl
@[simp] theorem leaveOfferQueue_context (h : Handle) : (s.leaveOfferQueue h).context = s.context := rfl
@[simp] theorem leaveOfferQueue_lateRef (h : Handle) : (s.leaveOfferQueue h).lateRef = s.lateRef := rfl
@[simp] theorem leaveOfferQueue_frameOut (h : Handle) : (s.leaveOfferQueue h).frameOut = s.frameOut := rfl
@[simp] theorem leaveOfferQueue_ready (h : Handle) : (s.leaveOfferQueue h).ready = s.ready := rfl
@[simp] theorem leaveOfferQueue_limits (h : Handle) : (s.leaveOfferQueue h).limits = s.limits := rfl
@[simp] theorem leaveOfferQueue_census (h : Handle) : (s.leaveOfferQueue h).census = s.census := rfl
@[simp] theorem leaveOfferQueue_joinQueue (h : Handle) : (s.leaveOfferQueue h).joinQueue = s.joinQueue := rfl
@[simp] theorem leaveOfferQueue_offerQueue (h : Handle) :
    (s.leaveOfferQueue h).offerQueue = s.offerQueue.filter (· ≠ h) := rfl
@[simp] theorem leaveOfferQueue_edit (h : Handle) : (s.leaveOfferQueue h).edit = s.edit := rfl
@[simp] theorem leaveOfferQueue_port (h : Handle) : (s.leaveOfferQueue h).port = s.port := rfl
@[simp] theorem leaveOfferQueue_inReset (h : Handle) : (s.leaveOfferQueue h).inReset = s.inReset := rfl
@[simp] theorem leaveOfferQueue_poweredUp (h : Handle) : (s.leaveOfferQueue h).poweredUp = s.poweredUp := rfl
@[simp] theorem leaveOfferQueue_pending (h : Handle) : (s.leaveOfferQueue h).pending = s.pending := rfl
@[simp] theorem record_leaveOfferQueue (h : Handle) (k : Handle) : (s.leaveOfferQueue h).record k = s.record k := rfl
@[simp] theorem seatState_leaveOfferQueue (h : Handle) (k : SeatNo) :
    (s.leaveOfferQueue h).seatState k = s.seatState k := rfl
@[simp] theorem isChanged_leaveOfferQueue (h : Handle) (k : Handle) :
    (s.leaveOfferQueue h).isChanged k = s.isChanged k := rfl
@[simp] theorem cellValue_leaveOfferQueue (h : Handle) (k : CellNo) :
    (s.leaveOfferQueue h).cellValue k = s.cellValue k := rfl

/-! ### leaveJoinQueue -/

@[simp] theorem leaveJoinQueue_records (x : BitVec 32) : (s.leaveJoinQueue x).records = s.records := rfl
@[simp] theorem leaveJoinQueue_changed (x : BitVec 32) : (s.leaveJoinQueue x).changed = s.changed := rfl
@[simp] theorem leaveJoinQueue_cells (x : BitVec 32) : (s.leaveJoinQueue x).cells = s.cells := rfl
@[simp] theorem leaveJoinQueue_seats (x : BitVec 32) : (s.leaveJoinQueue x).seats = s.seats := rfl
@[simp] theorem leaveJoinQueue_time (x : BitVec 32) : (s.leaveJoinQueue x).time = s.time := rfl
@[simp] theorem leaveJoinQueue_context (x : BitVec 32) : (s.leaveJoinQueue x).context = s.context := rfl
@[simp] theorem leaveJoinQueue_lateRef (x : BitVec 32) : (s.leaveJoinQueue x).lateRef = s.lateRef := rfl
@[simp] theorem leaveJoinQueue_frameOut (x : BitVec 32) : (s.leaveJoinQueue x).frameOut = s.frameOut := rfl
@[simp] theorem leaveJoinQueue_ready (x : BitVec 32) : (s.leaveJoinQueue x).ready = s.ready := rfl
@[simp] theorem leaveJoinQueue_limits (x : BitVec 32) : (s.leaveJoinQueue x).limits = s.limits := rfl
@[simp] theorem leaveJoinQueue_census (x : BitVec 32) : (s.leaveJoinQueue x).census = s.census := rfl
@[simp] theorem leaveJoinQueue_joinQueue (x : BitVec 32) :
    (s.leaveJoinQueue x).joinQueue = s.joinQueue.filter fun e => e.serial ≠ x := rfl
@[simp] theorem leaveJoinQueue_offerQueue (x : BitVec 32) : (s.leaveJoinQueue x).offerQueue = s.offerQueue := rfl
@[simp] theorem leaveJoinQueue_edit (x : BitVec 32) : (s.leaveJoinQueue x).edit = s.edit := rfl
@[simp] theorem leaveJoinQueue_port (x : BitVec 32) : (s.leaveJoinQueue x).port = s.port := rfl
@[simp] theorem leaveJoinQueue_inReset (x : BitVec 32) : (s.leaveJoinQueue x).inReset = s.inReset := rfl
@[simp] theorem leaveJoinQueue_poweredUp (x : BitVec 32) : (s.leaveJoinQueue x).poweredUp = s.poweredUp := rfl
@[simp] theorem leaveJoinQueue_pending (x : BitVec 32) : (s.leaveJoinQueue x).pending = s.pending := rfl
@[simp] theorem record_leaveJoinQueue (x : BitVec 32) (k : Handle) : (s.leaveJoinQueue x).record k = s.record k := rfl
@[simp] theorem seatState_leaveJoinQueue (x : BitVec 32) (k : SeatNo) :
    (s.leaveJoinQueue x).seatState k = s.seatState k := rfl
@[simp] theorem isChanged_leaveJoinQueue (x : BitVec 32) (k : Handle) :
    (s.leaveJoinQueue x).isChanged k = s.isChanged k := rfl
@[simp] theorem cellValue_leaveJoinQueue (x : BitVec 32) (k : CellNo) :
    (s.leaveJoinQueue x).cellValue k = s.cellValue k := rfl

/-! ### withEvents -/

@[simp] theorem withEvents_records (f m : BitVec 9) : (s.withEvents f m).records = s.records := rfl
@[simp] theorem withEvents_changed (f m : BitVec 9) : (s.withEvents f m).changed = s.changed := rfl
@[simp] theorem withEvents_cells (f m : BitVec 9) : (s.withEvents f m).cells = s.cells := rfl
@[simp] theorem withEvents_seats (f m : BitVec 9) : (s.withEvents f m).seats = s.seats := rfl
@[simp] theorem withEvents_time (f m : BitVec 9) : (s.withEvents f m).time = s.time := rfl
@[simp] theorem withEvents_context (f m : BitVec 9) : (s.withEvents f m).context = s.context := rfl
@[simp] theorem withEvents_lateRef (f m : BitVec 9) : (s.withEvents f m).lateRef = s.lateRef := rfl
@[simp] theorem withEvents_frameOut (f m : BitVec 9) : (s.withEvents f m).frameOut = s.frameOut := rfl
@[simp] theorem withEvents_ready (f m : BitVec 9) : (s.withEvents f m).ready = s.ready := rfl
@[simp] theorem withEvents_limits (f m : BitVec 9) : (s.withEvents f m).limits = s.limits := rfl
@[simp] theorem withEvents_census (f m : BitVec 9) : (s.withEvents f m).census = s.census := rfl
@[simp] theorem withEvents_joinQueue (f m : BitVec 9) : (s.withEvents f m).joinQueue = s.joinQueue := rfl
@[simp] theorem withEvents_offerQueue (f m : BitVec 9) : (s.withEvents f m).offerQueue = s.offerQueue := rfl
@[simp] theorem withEvents_edit (f m : BitVec 9) : (s.withEvents f m).edit = s.edit := rfl
@[simp] theorem withEvents_port (f m : BitVec 9) :
    (s.withEvents f m).port = { s.port with flags := f, mask := m, attention := f &&& m != 0 } := rfl
@[simp] theorem withEvents_inReset (f m : BitVec 9) : (s.withEvents f m).inReset = s.inReset := rfl
@[simp] theorem withEvents_poweredUp (f m : BitVec 9) : (s.withEvents f m).poweredUp = s.poweredUp := rfl
@[simp] theorem withEvents_pending (f m : BitVec 9) : (s.withEvents f m).pending = s.pending := rfl
@[simp] theorem record_withEvents (f m : BitVec 9) (k : Handle) : (s.withEvents f m).record k = s.record k := rfl
@[simp] theorem seatState_withEvents (f m : BitVec 9) (k : SeatNo) :
    (s.withEvents f m).seatState k = s.seatState k := rfl
@[simp] theorem isChanged_withEvents (f m : BitVec 9) (k : Handle) :
    (s.withEvents f m).isChanged k = s.isChanged k := rfl
@[simp] theorem cellValue_withEvents (f m : BitVec 9) (k : CellNo) :
    (s.withEvents f m).cellValue k = s.cellValue k := rfl

/-! ### setFlag -/

@[simp] theorem setFlag_records (f : EventFlag) : (s.setFlag f).records = s.records := rfl
@[simp] theorem setFlag_changed (f : EventFlag) : (s.setFlag f).changed = s.changed := rfl
@[simp] theorem setFlag_cells (f : EventFlag) : (s.setFlag f).cells = s.cells := rfl
@[simp] theorem setFlag_seats (f : EventFlag) : (s.setFlag f).seats = s.seats := rfl
@[simp] theorem setFlag_time (f : EventFlag) : (s.setFlag f).time = s.time := rfl
@[simp] theorem setFlag_context (f : EventFlag) : (s.setFlag f).context = s.context := rfl
@[simp] theorem setFlag_lateRef (f : EventFlag) : (s.setFlag f).lateRef = s.lateRef := rfl
@[simp] theorem setFlag_frameOut (f : EventFlag) : (s.setFlag f).frameOut = s.frameOut := rfl
@[simp] theorem setFlag_ready (f : EventFlag) : (s.setFlag f).ready = s.ready := rfl
@[simp] theorem setFlag_limits (f : EventFlag) : (s.setFlag f).limits = s.limits := rfl
@[simp] theorem setFlag_census (f : EventFlag) : (s.setFlag f).census = s.census := rfl
@[simp] theorem setFlag_joinQueue (f : EventFlag) : (s.setFlag f).joinQueue = s.joinQueue := rfl
@[simp] theorem setFlag_offerQueue (f : EventFlag) : (s.setFlag f).offerQueue = s.offerQueue := rfl
@[simp] theorem setFlag_edit (f : EventFlag) : (s.setFlag f).edit = s.edit := rfl
@[simp] theorem setFlag_port (f : EventFlag) :
    (s.setFlag f).port = { s.port with flags := s.port.flags ||| f.word, attention := (s.port.flags ||| f.word) &&& s.port.mask != 0 } := rfl
@[simp] theorem setFlag_inReset (f : EventFlag) : (s.setFlag f).inReset = s.inReset := rfl
@[simp] theorem setFlag_poweredUp (f : EventFlag) : (s.setFlag f).poweredUp = s.poweredUp := rfl
@[simp] theorem setFlag_pending (f : EventFlag) : (s.setFlag f).pending = s.pending := rfl
@[simp] theorem record_setFlag (f : EventFlag) (k : Handle) : (s.setFlag f).record k = s.record k := rfl
@[simp] theorem seatState_setFlag (f : EventFlag) (k : SeatNo) : (s.setFlag f).seatState k = s.seatState k := rfl
@[simp] theorem isChanged_setFlag (f : EventFlag) (k : Handle) : (s.setFlag f).isChanged k = s.isChanged k := rfl
@[simp] theorem cellValue_setFlag (f : EventFlag) (k : CellNo) : (s.setFlag f).cellValue k = s.cellValue k := rfl

/-! ### markChanged -/

@[simp] theorem markChanged_records (h : Handle) : (s.markChanged h).records = s.records := rfl
@[simp] theorem markChanged_changed (h : Handle) : (s.markChanged h).changed = s.changed.set h.val true := rfl
@[simp] theorem markChanged_cells (h : Handle) : (s.markChanged h).cells = s.cells := rfl
@[simp] theorem markChanged_seats (h : Handle) : (s.markChanged h).seats = s.seats := rfl
@[simp] theorem markChanged_time (h : Handle) : (s.markChanged h).time = s.time := rfl
@[simp] theorem markChanged_context (h : Handle) : (s.markChanged h).context = s.context := rfl
@[simp] theorem markChanged_lateRef (h : Handle) : (s.markChanged h).lateRef = s.lateRef := rfl
@[simp] theorem markChanged_frameOut (h : Handle) : (s.markChanged h).frameOut = s.frameOut := rfl
@[simp] theorem markChanged_ready (h : Handle) : (s.markChanged h).ready = s.ready := rfl
@[simp] theorem markChanged_limits (h : Handle) : (s.markChanged h).limits = s.limits := rfl
@[simp] theorem markChanged_census (h : Handle) : (s.markChanged h).census = s.census := rfl
@[simp] theorem markChanged_joinQueue (h : Handle) : (s.markChanged h).joinQueue = s.joinQueue := rfl
@[simp] theorem markChanged_offerQueue (h : Handle) : (s.markChanged h).offerQueue = s.offerQueue := rfl
@[simp] theorem markChanged_edit (h : Handle) : (s.markChanged h).edit = s.edit := rfl
@[simp] theorem markChanged_port (h : Handle) : (s.markChanged h).port = (s.setFlag .changed).port := rfl
@[simp] theorem markChanged_inReset (h : Handle) : (s.markChanged h).inReset = s.inReset := rfl
@[simp] theorem markChanged_poweredUp (h : Handle) : (s.markChanged h).poweredUp = s.poweredUp := rfl
@[simp] theorem markChanged_pending (h : Handle) : (s.markChanged h).pending = s.pending := rfl
@[simp] theorem record_markChanged (h : Handle) (k : Handle) : (s.markChanged h).record k = s.record k := rfl
@[simp] theorem seatState_markChanged (h : Handle) (k : SeatNo) : (s.markChanged h).seatState k = s.seatState k := rfl
@[simp] theorem cellValue_markChanged (h : Handle) (k : CellNo) : (s.markChanged h).cellValue k = s.cellValue k := rfl

/-! ### skipTurn -/

@[simp] theorem skipTurn_records : (s.skipTurn).records = s.records := rfl
@[simp] theorem skipTurn_changed : (s.skipTurn).changed = s.changed := rfl
@[simp] theorem skipTurn_cells : (s.skipTurn).cells = s.cells := rfl
@[simp] theorem skipTurn_seats : (s.skipTurn).seats = s.seats := rfl
@[simp] theorem skipTurn_time : (s.skipTurn).time = s.time := rfl
@[simp] theorem skipTurn_context : (s.skipTurn).context = s.context := rfl
@[simp] theorem skipTurn_lateRef : (s.skipTurn).lateRef = s.lateRef := rfl
@[simp] theorem skipTurn_frameOut : (s.skipTurn).frameOut = s.frameOut := rfl
@[simp] theorem skipTurn_ready : (s.skipTurn).ready = s.ready := rfl
@[simp] theorem skipTurn_limits : (s.skipTurn).limits = s.limits := rfl
@[simp] theorem skipTurn_census : (s.skipTurn).census = s.census := rfl
@[simp] theorem skipTurn_joinQueue : (s.skipTurn).joinQueue = s.joinQueue := rfl
@[simp] theorem skipTurn_offerQueue : (s.skipTurn).offerQueue = s.offerQueue := rfl
@[simp] theorem skipTurn_edit : (s.skipTurn).edit = s.edit := rfl
@[simp] theorem skipTurn_port :
    (s.skipTurn).port = (State.setFlag { s with port := { s.port with skipped := min (s.port.skipped + 1) 65535 } } .turnSkipped).port := rfl
@[simp] theorem skipTurn_inReset : (s.skipTurn).inReset = s.inReset := rfl
@[simp] theorem skipTurn_poweredUp : (s.skipTurn).poweredUp = s.poweredUp := rfl
@[simp] theorem skipTurn_pending : (s.skipTurn).pending = s.pending := rfl
@[simp] theorem record_skipTurn (k : Handle) : (s.skipTurn).record k = s.record k := rfl
@[simp] theorem seatState_skipTurn (k : SeatNo) : (s.skipTurn).seatState k = s.seatState k := rfl
@[simp] theorem isChanged_skipTurn (k : Handle) : (s.skipTurn).isChanged k = s.isChanged k := rfl
@[simp] theorem cellValue_skipTurn (k : CellNo) : (s.skipTurn).cellValue k = s.cellValue k := rfl

/-! ### countLate -/

@[simp] theorem countLate_records : (s.countLate).records = s.records := rfl
@[simp] theorem countLate_changed : (s.countLate).changed = s.changed := rfl
@[simp] theorem countLate_cells : (s.countLate).cells = s.cells := rfl
@[simp] theorem countLate_seats : (s.countLate).seats = s.seats := rfl
@[simp] theorem countLate_time : (s.countLate).time = s.time := rfl
@[simp] theorem countLate_context : (s.countLate).context = s.context := rfl
@[simp] theorem countLate_lateRef : (s.countLate).lateRef = s.lateRef := rfl
@[simp] theorem countLate_frameOut : (s.countLate).frameOut = s.frameOut := rfl
@[simp] theorem countLate_ready : (s.countLate).ready = s.ready := rfl
@[simp] theorem countLate_limits : (s.countLate).limits = s.limits := rfl
@[simp] theorem countLate_census : (s.countLate).census = s.census := rfl
@[simp] theorem countLate_joinQueue : (s.countLate).joinQueue = s.joinQueue := rfl
@[simp] theorem countLate_offerQueue : (s.countLate).offerQueue = s.offerQueue := rfl
@[simp] theorem countLate_edit : (s.countLate).edit = s.edit := rfl
@[simp] theorem countLate_port : (s.countLate).port = { s.port with late := min (s.port.late + 1) 65535 } := rfl
@[simp] theorem countLate_inReset : (s.countLate).inReset = s.inReset := rfl
@[simp] theorem countLate_poweredUp : (s.countLate).poweredUp = s.poweredUp := rfl
@[simp] theorem countLate_pending : (s.countLate).pending = s.pending := rfl
@[simp] theorem record_countLate (k : Handle) : (s.countLate).record k = s.record k := rfl
@[simp] theorem seatState_countLate (k : SeatNo) : (s.countLate).seatState k = s.seatState k := rfl
@[simp] theorem isChanged_countLate (k : Handle) : (s.countLate).isChanged k = s.isChanged k := rfl
@[simp] theorem cellValue_countLate (k : CellNo) : (s.countLate).cellValue k = s.cellValue k := rfl

/-! ### reply -/

@[simp] theorem reply_records (c : ResultCode) (b : List Byte) : (s.reply c b).records = s.records := rfl
@[simp] theorem reply_changed (c : ResultCode) (b : List Byte) : (s.reply c b).changed = s.changed := rfl
@[simp] theorem reply_cells (c : ResultCode) (b : List Byte) : (s.reply c b).cells = s.cells := rfl
@[simp] theorem reply_seats (c : ResultCode) (b : List Byte) : (s.reply c b).seats = s.seats := rfl
@[simp] theorem reply_time (c : ResultCode) (b : List Byte) : (s.reply c b).time = s.time := rfl
@[simp] theorem reply_context (c : ResultCode) (b : List Byte) : (s.reply c b).context = s.context := rfl
@[simp] theorem reply_lateRef (c : ResultCode) (b : List Byte) : (s.reply c b).lateRef = s.lateRef := rfl
@[simp] theorem reply_frameOut (c : ResultCode) (b : List Byte) : (s.reply c b).frameOut = s.frameOut := rfl
@[simp] theorem reply_ready (c : ResultCode) (b : List Byte) : (s.reply c b).ready = s.ready := rfl
@[simp] theorem reply_limits (c : ResultCode) (b : List Byte) : (s.reply c b).limits = s.limits := rfl
@[simp] theorem reply_census (c : ResultCode) (b : List Byte) : (s.reply c b).census = s.census := rfl
@[simp] theorem reply_joinQueue (c : ResultCode) (b : List Byte) : (s.reply c b).joinQueue = s.joinQueue := rfl
@[simp] theorem reply_offerQueue (c : ResultCode) (b : List Byte) : (s.reply c b).offerQueue = s.offerQueue := rfl
@[simp] theorem reply_edit (c : ResultCode) (b : List Byte) : (s.reply c b).edit = s.edit := rfl
@[simp] theorem reply_port (c : ResultCode) (b : List Byte) :
    (s.reply c b).port = { s.port with lastResult := c, response := b } := rfl
@[simp] theorem reply_inReset (c : ResultCode) (b : List Byte) : (s.reply c b).inReset = s.inReset := rfl
@[simp] theorem reply_poweredUp (c : ResultCode) (b : List Byte) : (s.reply c b).poweredUp = s.poweredUp := rfl
@[simp] theorem reply_pending (c : ResultCode) (b : List Byte) : (s.reply c b).pending = s.pending := rfl
@[simp] theorem record_reply (c : ResultCode) (b : List Byte) (k : Handle) : (s.reply c b).record k = s.record k := rfl
@[simp] theorem seatState_reply (c : ResultCode) (b : List Byte) (k : SeatNo) :
    (s.reply c b).seatState k = s.seatState k := rfl
@[simp] theorem isChanged_reply (c : ResultCode) (b : List Byte) (k : Handle) :
    (s.reply c b).isChanged k = s.isChanged k := rfl
@[simp] theorem cellValue_reply (c : ResultCode) (b : List Byte) (k : CellNo) :
    (s.reply c b).cellValue k = s.cellValue k := rfl

/-! ### refuse -/

@[simp] theorem refuse_records (c : ResultCode) : (s.refuse c).records = s.records := rfl
@[simp] theorem refuse_changed (c : ResultCode) : (s.refuse c).changed = s.changed := rfl
@[simp] theorem refuse_cells (c : ResultCode) : (s.refuse c).cells = s.cells := rfl
@[simp] theorem refuse_seats (c : ResultCode) : (s.refuse c).seats = s.seats := rfl
@[simp] theorem refuse_time (c : ResultCode) : (s.refuse c).time = s.time := rfl
@[simp] theorem refuse_context (c : ResultCode) : (s.refuse c).context = s.context := rfl
@[simp] theorem refuse_lateRef (c : ResultCode) : (s.refuse c).lateRef = s.lateRef := rfl
@[simp] theorem refuse_frameOut (c : ResultCode) : (s.refuse c).frameOut = s.frameOut := rfl
@[simp] theorem refuse_ready (c : ResultCode) : (s.refuse c).ready = s.ready := rfl
@[simp] theorem refuse_limits (c : ResultCode) : (s.refuse c).limits = s.limits := rfl
@[simp] theorem refuse_census (c : ResultCode) : (s.refuse c).census = s.census := rfl
@[simp] theorem refuse_joinQueue (c : ResultCode) : (s.refuse c).joinQueue = s.joinQueue := rfl
@[simp] theorem refuse_offerQueue (c : ResultCode) : (s.refuse c).offerQueue = s.offerQueue := rfl
@[simp] theorem refuse_edit (c : ResultCode) : (s.refuse c).edit = s.edit := rfl
@[simp] theorem refuse_port (c : ResultCode) :
    (s.refuse c).port = { s.port with lastResult := c, response := [] } := rfl
@[simp] theorem refuse_inReset (c : ResultCode) : (s.refuse c).inReset = s.inReset := rfl
@[simp] theorem refuse_poweredUp (c : ResultCode) : (s.refuse c).poweredUp = s.poweredUp := rfl
@[simp] theorem refuse_pending (c : ResultCode) : (s.refuse c).pending = s.pending := rfl
@[simp] theorem record_refuse (c : ResultCode) (k : Handle) : (s.refuse c).record k = s.record k := rfl
@[simp] theorem seatState_refuse (c : ResultCode) (k : SeatNo) : (s.refuse c).seatState k = s.seatState k := rfl
@[simp] theorem isChanged_refuse (c : ResultCode) (k : Handle) : (s.refuse c).isChanged k = s.isChanged k := rfl
@[simp] theorem cellValue_refuse (c : ResultCode) (k : CellNo) : (s.refuse c).cellValue k = s.cellValue k := rfl

/-! ### accept -/

@[simp] theorem accept_records : (s.accept).records = s.records := rfl
@[simp] theorem accept_changed : (s.accept).changed = s.changed := rfl
@[simp] theorem accept_cells : (s.accept).cells = s.cells := rfl
@[simp] theorem accept_seats : (s.accept).seats = s.seats := rfl
@[simp] theorem accept_time : (s.accept).time = s.time := rfl
@[simp] theorem accept_context : (s.accept).context = s.context := rfl
@[simp] theorem accept_lateRef : (s.accept).lateRef = s.lateRef := rfl
@[simp] theorem accept_frameOut : (s.accept).frameOut = s.frameOut := rfl
@[simp] theorem accept_ready : (s.accept).ready = s.ready := rfl
@[simp] theorem accept_limits : (s.accept).limits = s.limits := rfl
@[simp] theorem accept_census : (s.accept).census = s.census := rfl
@[simp] theorem accept_joinQueue : (s.accept).joinQueue = s.joinQueue := rfl
@[simp] theorem accept_offerQueue : (s.accept).offerQueue = s.offerQueue := rfl
@[simp] theorem accept_edit : (s.accept).edit = s.edit := rfl
@[simp] theorem accept_port : (s.accept).port = { s.port with lastResult := .ok, response := [] } := rfl
@[simp] theorem accept_inReset : (s.accept).inReset = s.inReset := rfl
@[simp] theorem accept_poweredUp : (s.accept).poweredUp = s.poweredUp := rfl
@[simp] theorem accept_pending : (s.accept).pending = s.pending := rfl
@[simp] theorem record_accept (k : Handle) : (s.accept).record k = s.record k := rfl
@[simp] theorem seatState_accept (k : SeatNo) : (s.accept).seatState k = s.seatState k := rfl
@[simp] theorem isChanged_accept (k : Handle) : (s.accept).isChanged k = s.isChanged k := rfl
@[simp] theorem cellValue_accept (k : CellNo) : (s.accept).cellValue k = s.cellValue k := rfl

/-! ### deselect -/

@[simp] theorem deselect_records : (s.deselect).records = s.records := rfl
@[simp] theorem deselect_changed : (s.deselect).changed = s.changed := rfl
@[simp] theorem deselect_cells : (s.deselect).cells = s.cells := rfl
@[simp] theorem deselect_seats : (s.deselect).seats = s.seats := rfl
@[simp] theorem deselect_time : (s.deselect).time = s.time := rfl
@[simp] theorem deselect_context : (s.deselect).context = s.context := rfl
@[simp] theorem deselect_lateRef : (s.deselect).lateRef = s.lateRef := rfl
@[simp] theorem deselect_frameOut : (s.deselect).frameOut = s.frameOut := rfl
@[simp] theorem deselect_ready : (s.deselect).ready = s.ready := rfl
@[simp] theorem deselect_limits : (s.deselect).limits = s.limits := rfl
@[simp] theorem deselect_census : (s.deselect).census = s.census := rfl
@[simp] theorem deselect_joinQueue : (s.deselect).joinQueue = s.joinQueue := rfl
@[simp] theorem deselect_offerQueue : (s.deselect).offerQueue = s.offerQueue := rfl
@[simp] theorem deselect_edit : (s.deselect).edit = s.edit := rfl
@[simp] theorem deselect_port : (s.deselect).port = { s.port with select := .high } := rfl
@[simp] theorem deselect_inReset : (s.deselect).inReset = s.inReset := rfl
@[simp] theorem deselect_poweredUp : (s.deselect).poweredUp = s.poweredUp := rfl
@[simp] theorem deselect_pending : (s.deselect).pending = s.pending := rfl
@[simp] theorem record_deselect (k : Handle) : (s.deselect).record k = s.record k := rfl
@[simp] theorem seatState_deselect (k : SeatNo) : (s.deselect).seatState k = s.seatState k := rfl
@[simp] theorem isChanged_deselect (k : Handle) : (s.deselect).isChanged k = s.isChanged k := rfl
@[simp] theorem cellValue_deselect (k : CellNo) : (s.deselect).cellValue k = s.cellValue k := rfl

/-! ### endTransaction -/

@[simp] theorem endTransaction_records (b : List Byte) : (s.endTransaction b).records = s.records := rfl
@[simp] theorem endTransaction_changed (b : List Byte) : (s.endTransaction b).changed = s.changed := rfl
@[simp] theorem endTransaction_cells (b : List Byte) : (s.endTransaction b).cells = s.cells := rfl
@[simp] theorem endTransaction_seats (b : List Byte) : (s.endTransaction b).seats = s.seats := rfl
@[simp] theorem endTransaction_time (b : List Byte) : (s.endTransaction b).time = s.time := rfl
@[simp] theorem endTransaction_context (b : List Byte) : (s.endTransaction b).context = s.context := rfl
@[simp] theorem endTransaction_lateRef (b : List Byte) : (s.endTransaction b).lateRef = s.lateRef := rfl
@[simp] theorem endTransaction_frameOut (b : List Byte) : (s.endTransaction b).frameOut = s.frameOut := rfl
@[simp] theorem endTransaction_ready (b : List Byte) : (s.endTransaction b).ready = s.ready := rfl
@[simp] theorem endTransaction_limits (b : List Byte) : (s.endTransaction b).limits = s.limits := rfl
@[simp] theorem endTransaction_census (b : List Byte) : (s.endTransaction b).census = s.census := rfl
@[simp] theorem endTransaction_joinQueue (b : List Byte) : (s.endTransaction b).joinQueue = s.joinQueue := rfl
@[simp] theorem endTransaction_offerQueue (b : List Byte) : (s.endTransaction b).offerQueue = s.offerQueue := rfl
@[simp] theorem endTransaction_edit (b : List Byte) : (s.endTransaction b).edit = s.edit := rfl
@[simp] theorem endTransaction_port (b : List Byte) :
    (s.endTransaction b).port = { s.port with select := .high, dataOut := b } := rfl
@[simp] theorem endTransaction_inReset (b : List Byte) : (s.endTransaction b).inReset = s.inReset := rfl
@[simp] theorem endTransaction_poweredUp (b : List Byte) : (s.endTransaction b).poweredUp = s.poweredUp := rfl
@[simp] theorem endTransaction_pending (b : List Byte) : (s.endTransaction b).pending = s.pending := rfl
@[simp] theorem record_endTransaction (b : List Byte) (k : Handle) : (s.endTransaction b).record k = s.record k := rfl
@[simp] theorem seatState_endTransaction (b : List Byte) (k : SeatNo) :
    (s.endTransaction b).seatState k = s.seatState k := rfl
@[simp] theorem isChanged_endTransaction (b : List Byte) (k : Handle) :
    (s.endTransaction b).isChanged k = s.isChanged k := rfl
@[simp] theorem cellValue_endTransaction (b : List Byte) (k : CellNo) :
    (s.endTransaction b).cellValue k = s.cellValue k := rfl

/-! ### answered -/

@[simp] theorem answered_records (st : Byte) (p : List Byte) (c : ResultCode) (b : List Byte) :
    (s.answered st p c b).records = s.records := rfl
@[simp] theorem answered_changed (st : Byte) (p : List Byte) (c : ResultCode) (b : List Byte) :
    (s.answered st p c b).changed = s.changed := rfl
@[simp] theorem answered_cells (st : Byte) (p : List Byte) (c : ResultCode) (b : List Byte) :
    (s.answered st p c b).cells = s.cells := rfl
@[simp] theorem answered_seats (st : Byte) (p : List Byte) (c : ResultCode) (b : List Byte) :
    (s.answered st p c b).seats = s.seats := rfl
@[simp] theorem answered_time (st : Byte) (p : List Byte) (c : ResultCode) (b : List Byte) :
    (s.answered st p c b).time = s.time := rfl
@[simp] theorem answered_context (st : Byte) (p : List Byte) (c : ResultCode) (b : List Byte) :
    (s.answered st p c b).context = s.context := rfl
@[simp] theorem answered_lateRef (st : Byte) (p : List Byte) (c : ResultCode) (b : List Byte) :
    (s.answered st p c b).lateRef = s.lateRef := rfl
@[simp] theorem answered_frameOut (st : Byte) (p : List Byte) (c : ResultCode) (b : List Byte) :
    (s.answered st p c b).frameOut = s.frameOut := rfl
@[simp] theorem answered_ready (st : Byte) (p : List Byte) (c : ResultCode) (b : List Byte) :
    (s.answered st p c b).ready = s.ready := rfl
@[simp] theorem answered_limits (st : Byte) (p : List Byte) (c : ResultCode) (b : List Byte) :
    (s.answered st p c b).limits = s.limits := rfl
@[simp] theorem answered_census (st : Byte) (p : List Byte) (c : ResultCode) (b : List Byte) :
    (s.answered st p c b).census = s.census := rfl
@[simp] theorem answered_joinQueue (st : Byte) (p : List Byte) (c : ResultCode) (b : List Byte) :
    (s.answered st p c b).joinQueue = s.joinQueue := rfl
@[simp] theorem answered_offerQueue (st : Byte) (p : List Byte) (c : ResultCode) (b : List Byte) :
    (s.answered st p c b).offerQueue = s.offerQueue := rfl
@[simp] theorem answered_edit (st : Byte) (p : List Byte) (c : ResultCode) (b : List Byte) :
    (s.answered st p c b).edit = s.edit := rfl
@[simp] theorem answered_port (st : Byte) (p : List Byte) (c : ResultCode) (b : List Byte) :
    (s.answered st p c b).port = { s.port with select := .high, dataOut := st :: List.replicate p.length 0, lastResult := c, response := b } := rfl
@[simp] theorem answered_inReset (st : Byte) (p : List Byte) (c : ResultCode) (b : List Byte) :
    (s.answered st p c b).inReset = s.inReset := rfl
@[simp] theorem answered_poweredUp (st : Byte) (p : List Byte) (c : ResultCode) (b : List Byte) :
    (s.answered st p c b).poweredUp = s.poweredUp := rfl
@[simp] theorem answered_pending (st : Byte) (p : List Byte) (c : ResultCode) (b : List Byte) :
    (s.answered st p c b).pending = s.pending := rfl
@[simp] theorem record_answered (st : Byte) (p : List Byte) (c : ResultCode) (b : List Byte) (k : Handle) :
    (s.answered st p c b).record k = s.record k := rfl
@[simp] theorem seatState_answered (st : Byte) (p : List Byte) (c : ResultCode) (b : List Byte) (k : SeatNo) :
    (s.answered st p c b).seatState k = s.seatState k := rfl
@[simp] theorem isChanged_answered (st : Byte) (p : List Byte) (c : ResultCode) (b : List Byte) (k : Handle) :
    (s.answered st p c b).isChanged k = s.isChanged k := rfl
@[simp] theorem cellValue_answered (st : Byte) (p : List Byte) (c : ResultCode) (b : List Byte) (k : CellNo) :
    (s.answered st p c b).cellValue k = s.cellValue k := rfl

/-! ### moveTo -/

@[simp] theorem moveTo_records (n : Fin 64) (p : Fin 3) : (s.moveTo n p).records = s.records := rfl
@[simp] theorem moveTo_changed (n : Fin 64) (p : Fin 3) : (s.moveTo n p).changed = s.changed := rfl
@[simp] theorem moveTo_cells (n : Fin 64) (p : Fin 3) : (s.moveTo n p).cells = s.cells := rfl
@[simp] theorem moveTo_seats (n : Fin 64) (p : Fin 3) : (s.moveTo n p).seats = s.seats := rfl
@[simp] theorem moveTo_time (n : Fin 64) (p : Fin 3) :
    (s.moveTo n p).time = { s.time with slot := n, position := p, tick := 0 } := rfl
@[simp] theorem moveTo_context (n : Fin 64) (p : Fin 3) : (s.moveTo n p).context = s.context := rfl
@[simp] theorem moveTo_lateRef (n : Fin 64) (p : Fin 3) : (s.moveTo n p).lateRef = s.lateRef := rfl
@[simp] theorem moveTo_frameOut (n : Fin 64) (p : Fin 3) : (s.moveTo n p).frameOut = s.frameOut := rfl
@[simp] theorem moveTo_ready (n : Fin 64) (p : Fin 3) : (s.moveTo n p).ready = s.ready := rfl
@[simp] theorem moveTo_limits (n : Fin 64) (p : Fin 3) : (s.moveTo n p).limits = s.limits := rfl
@[simp] theorem moveTo_census (n : Fin 64) (p : Fin 3) : (s.moveTo n p).census = s.census := rfl
@[simp] theorem moveTo_joinQueue (n : Fin 64) (p : Fin 3) : (s.moveTo n p).joinQueue = s.joinQueue := rfl
@[simp] theorem moveTo_offerQueue (n : Fin 64) (p : Fin 3) : (s.moveTo n p).offerQueue = s.offerQueue := rfl
@[simp] theorem moveTo_edit (n : Fin 64) (p : Fin 3) : (s.moveTo n p).edit = s.edit := rfl
@[simp] theorem moveTo_port (n : Fin 64) (p : Fin 3) : (s.moveTo n p).port = s.port := rfl
@[simp] theorem moveTo_inReset (n : Fin 64) (p : Fin 3) : (s.moveTo n p).inReset = s.inReset := rfl
@[simp] theorem moveTo_poweredUp (n : Fin 64) (p : Fin 3) : (s.moveTo n p).poweredUp = s.poweredUp := rfl
@[simp] theorem moveTo_pending (n : Fin 64) (p : Fin 3) : (s.moveTo n p).pending = s.pending := rfl
@[simp] theorem record_moveTo (n : Fin 64) (p : Fin 3) (k : Handle) : (s.moveTo n p).record k = s.record k := rfl
@[simp] theorem seatState_moveTo (n : Fin 64) (p : Fin 3) (k : SeatNo) :
    (s.moveTo n p).seatState k = s.seatState k := rfl
@[simp] theorem isChanged_moveTo (n : Fin 64) (p : Fin 3) (k : Handle) :
    (s.moveTo n p).isChanged k = s.isChanged k := rfl
@[simp] theorem cellValue_moveTo (n : Fin 64) (p : Fin 3) (k : CellNo) :
    (s.moveTo n p).cellValue k = s.cellValue k := rfl

/-! ### reachTick -/

@[simp] theorem reachTick_records (n : Nat) : (s.reachTick n).records = s.records := rfl
@[simp] theorem reachTick_changed (n : Nat) : (s.reachTick n).changed = s.changed := rfl
@[simp] theorem reachTick_cells (n : Nat) : (s.reachTick n).cells = s.cells := rfl
@[simp] theorem reachTick_seats (n : Nat) : (s.reachTick n).seats = s.seats := rfl
@[simp] theorem reachTick_time (n : Nat) : (s.reachTick n).time = { s.time with tick := max s.time.tick n } := rfl
@[simp] theorem reachTick_context (n : Nat) : (s.reachTick n).context = s.context := rfl
@[simp] theorem reachTick_lateRef (n : Nat) : (s.reachTick n).lateRef = s.lateRef := rfl
@[simp] theorem reachTick_frameOut (n : Nat) : (s.reachTick n).frameOut = s.frameOut := rfl
@[simp] theorem reachTick_ready (n : Nat) : (s.reachTick n).ready = s.ready := rfl
@[simp] theorem reachTick_limits (n : Nat) : (s.reachTick n).limits = s.limits := rfl
@[simp] theorem reachTick_census (n : Nat) : (s.reachTick n).census = s.census := rfl
@[simp] theorem reachTick_joinQueue (n : Nat) : (s.reachTick n).joinQueue = s.joinQueue := rfl
@[simp] theorem reachTick_offerQueue (n : Nat) : (s.reachTick n).offerQueue = s.offerQueue := rfl
@[simp] theorem reachTick_edit (n : Nat) : (s.reachTick n).edit = s.edit := rfl
@[simp] theorem reachTick_port (n : Nat) : (s.reachTick n).port = s.port := rfl
@[simp] theorem reachTick_inReset (n : Nat) : (s.reachTick n).inReset = s.inReset := rfl
@[simp] theorem reachTick_poweredUp (n : Nat) : (s.reachTick n).poweredUp = s.poweredUp := rfl
@[simp] theorem reachTick_pending (n : Nat) : (s.reachTick n).pending = s.pending := rfl
@[simp] theorem record_reachTick (n : Nat) (k : Handle) : (s.reachTick n).record k = s.record k := rfl
@[simp] theorem seatState_reachTick (n : Nat) (k : SeatNo) : (s.reachTick n).seatState k = s.seatState k := rfl
@[simp] theorem isChanged_reachTick (n : Nat) (k : Handle) : (s.reachTick n).isChanged k = s.isChanged k := rfl
@[simp] theorem cellValue_reachTick (n : Nat) (k : CellNo) : (s.reachTick n).cellValue k = s.cellValue k := rfl

/-! ### halt -/

@[simp] theorem halt_records : (s.halt).records = s.records := rfl
@[simp] theorem halt_changed : (s.halt).changed = s.changed := rfl
@[simp] theorem halt_cells : (s.halt).cells = s.cells := rfl
@[simp] theorem halt_seats : (s.halt).seats = s.seats := rfl
@[simp] theorem halt_time : (s.halt).time = s.time.stop := rfl
@[simp] theorem halt_context : (s.halt).context = none := rfl
@[simp] theorem halt_lateRef : (s.halt).lateRef = none := rfl
@[simp] theorem halt_frameOut : (s.halt).frameOut = s.frameOut := rfl
@[simp] theorem halt_ready : (s.halt).ready = s.ready := rfl
@[simp] theorem halt_limits : (s.halt).limits = s.limits := rfl
@[simp] theorem halt_census : (s.halt).census = s.census := rfl
@[simp] theorem halt_joinQueue : (s.halt).joinQueue = s.joinQueue := rfl
@[simp] theorem halt_offerQueue : (s.halt).offerQueue = s.offerQueue := rfl
@[simp] theorem halt_edit : (s.halt).edit = s.edit := rfl
@[simp] theorem halt_port : (s.halt).port = s.port := rfl
@[simp] theorem halt_inReset : (s.halt).inReset = s.inReset := rfl
@[simp] theorem halt_poweredUp : (s.halt).poweredUp = s.poweredUp := rfl
@[simp] theorem halt_pending : (s.halt).pending = s.pending := rfl
@[simp] theorem record_halt (k : Handle) : (s.halt).record k = s.record k := rfl
@[simp] theorem seatState_halt (k : SeatNo) : (s.halt).seatState k = s.seatState k := rfl
@[simp] theorem isChanged_halt (k : Handle) : (s.halt).isChanged k = s.isChanged k := rfl
@[simp] theorem cellValue_halt (k : CellNo) : (s.halt).cellValue k = s.cellValue k := rfl

/-! ### closeEdit -/

@[simp] theorem closeEdit_records : (s.closeEdit).records = s.records := rfl
@[simp] theorem closeEdit_changed : (s.closeEdit).changed = s.changed := rfl
@[simp] theorem closeEdit_cells : (s.closeEdit).cells = s.cells := rfl
@[simp] theorem closeEdit_seats : (s.closeEdit).seats = s.seats := rfl
@[simp] theorem closeEdit_time : (s.closeEdit).time = s.time := rfl
@[simp] theorem closeEdit_context : (s.closeEdit).context = s.context := rfl
@[simp] theorem closeEdit_lateRef : (s.closeEdit).lateRef = s.lateRef := rfl
@[simp] theorem closeEdit_frameOut : (s.closeEdit).frameOut = s.frameOut := rfl
@[simp] theorem closeEdit_ready : (s.closeEdit).ready = s.ready := rfl
@[simp] theorem closeEdit_limits : (s.closeEdit).limits = s.limits := rfl
@[simp] theorem closeEdit_census : (s.closeEdit).census = s.census := rfl
@[simp] theorem closeEdit_joinQueue : (s.closeEdit).joinQueue = s.joinQueue := rfl
@[simp] theorem closeEdit_offerQueue : (s.closeEdit).offerQueue = s.offerQueue := rfl
@[simp] theorem closeEdit_edit : (s.closeEdit).edit = none := rfl
@[simp] theorem closeEdit_port : (s.closeEdit).port = s.port := rfl
@[simp] theorem closeEdit_inReset : (s.closeEdit).inReset = s.inReset := rfl
@[simp] theorem closeEdit_poweredUp : (s.closeEdit).poweredUp = s.poweredUp := rfl
@[simp] theorem closeEdit_pending : (s.closeEdit).pending = s.pending := rfl
@[simp] theorem record_closeEdit (k : Handle) : (s.closeEdit).record k = s.record k := rfl
@[simp] theorem seatState_closeEdit (k : SeatNo) : (s.closeEdit).seatState k = s.seatState k := rfl
@[simp] theorem isChanged_closeEdit (k : Handle) : (s.closeEdit).isChanged k = s.isChanged k := rfl
@[simp] theorem cellValue_closeEdit (k : CellNo) : (s.closeEdit).cellValue k = s.cellValue k := rfl

/-! ### raiseEvents -/

@[simp] theorem raiseEvents_records (l : List Instr) : (s.raiseEvents l).records = s.records := rfl
@[simp] theorem raiseEvents_changed (l : List Instr) : (s.raiseEvents l).changed = s.changed := rfl
@[simp] theorem raiseEvents_cells (l : List Instr) : (s.raiseEvents l).cells = s.cells := rfl
@[simp] theorem raiseEvents_seats (l : List Instr) : (s.raiseEvents l).seats = s.seats := rfl
@[simp] theorem raiseEvents_time (l : List Instr) : (s.raiseEvents l).time = s.time := rfl
@[simp] theorem raiseEvents_context (l : List Instr) : (s.raiseEvents l).context = s.context := rfl
@[simp] theorem raiseEvents_lateRef (l : List Instr) : (s.raiseEvents l).lateRef = s.lateRef := rfl
@[simp] theorem raiseEvents_frameOut (l : List Instr) : (s.raiseEvents l).frameOut = s.frameOut := rfl
@[simp] theorem raiseEvents_ready (l : List Instr) : (s.raiseEvents l).ready = s.ready := rfl
@[simp] theorem raiseEvents_limits (l : List Instr) : (s.raiseEvents l).limits = s.limits := rfl
@[simp] theorem raiseEvents_census (l : List Instr) : (s.raiseEvents l).census = s.census := rfl
@[simp] theorem raiseEvents_joinQueue (l : List Instr) : (s.raiseEvents l).joinQueue = s.joinQueue := rfl
@[simp] theorem raiseEvents_offerQueue (l : List Instr) : (s.raiseEvents l).offerQueue = s.offerQueue := rfl
@[simp] theorem raiseEvents_edit (l : List Instr) : (s.raiseEvents l).edit = s.edit := rfl
@[simp] theorem raiseEvents_port (l : List Instr) : (s.raiseEvents l).port = s.port := rfl
@[simp] theorem raiseEvents_inReset (l : List Instr) : (s.raiseEvents l).inReset = s.inReset := rfl
@[simp] theorem raiseEvents_poweredUp (l : List Instr) : (s.raiseEvents l).poweredUp = s.poweredUp := rfl
@[simp] theorem raiseEvents_pending (l : List Instr) : (s.raiseEvents l).pending = s.pending ++ l := rfl
@[simp] theorem record_raiseEvents (l : List Instr) (k : Handle) : (s.raiseEvents l).record k = s.record k := rfl
@[simp] theorem seatState_raiseEvents (l : List Instr) (k : SeatNo) :
    (s.raiseEvents l).seatState k = s.seatState k := rfl
@[simp] theorem isChanged_raiseEvents (l : List Instr) (k : Handle) :
    (s.raiseEvents l).isChanged k = s.isChanged k := rfl
@[simp] theorem cellValue_raiseEvents (l : List Instr) (k : CellNo) :
    (s.raiseEvents l).cellValue k = s.cellValue k := rfl

end Sys2Proof.Machine
end

