-- ==== Sys2Proof/Laws/Ops.lean ====
section
/-! SUPPORT. What the shared operations do: the tables read back, the searches, the port, and the rows that are not
taken. -/

namespace Sys2Proof.Machine

variable (s : State)

/-! ## Reading back a table -/

@[simp] theorem record_setRecord_self (h : Handle) (r : Record) : (s.setRecord h r).record h = r := by
  simp [State.record, State.setRecord]

theorem record_setRecord_ne {h k : Handle} (r : Record) (hk : k ≠ h) : (s.setRecord h r).record k = s.record k := by
  have : h.val ≠ k.val := fun e => hk (Fin.ext e.symm)
  simp [State.record, State.setRecord, this]

theorem record_setRecord (h k : Handle) (r : Record) :
    (s.setRecord h r).record k = if k = h then r else s.record k := by
  by_cases hk : k = h
  · subst hk; simp
  · simp [record_setRecord_ne, hk]

@[simp] theorem setRecord_record (h : Handle) : s.setRecord h (s.record h) = s := by
  simp [State.record, State.setRecord]

@[simp] theorem setRecord_setRecord (h : Handle) (r q : Record) : (s.setRecord h r).setRecord h q = s.setRecord h q := by
  simp [State.setRecord]

@[simp] theorem seatState_setSeat_self (n : SeatNo) (v : Seat) : (s.setSeat n v).seatState n = v := by
  simp [State.seatState, State.setSeat]

theorem seatState_setSeat (n k : SeatNo) (v : Seat) :
    (s.setSeat n v).seatState k = if k = n then v else s.seatState k := by
  by_cases hk : k = n
  · subst hk; simp
  · have : n.val ≠ k.val := fun e => hk (Fin.ext e.symm)
    simp [State.seatState, State.setSeat, this, hk]

@[simp] theorem isChanged_markChanged_self (h : Handle) : (s.markChanged h).isChanged h = true := by
  simp [State.isChanged]

theorem isChanged_markChanged (h k : Handle) : (s.markChanged h).isChanged k = (decide (k = h) || s.isChanged k) := by
  by_cases hk : k = h
  · subst hk; simp
  · have : h.val ≠ k.val := fun e => hk (Fin.ext e.symm)
    simp [State.isChanged, this, hk]

theorem isChanged_unmarkChanged (h k : Handle) :
    (s.unmarkChanged h).isChanged k = (!decide (k = h) && s.isChanged k) := by
  by_cases hk : k = h
  · subst hk; simp [State.isChanged]
  · have : h.val ≠ k.val := fun e => hk (Fin.ext e.symm)
    simp [State.isChanged, this, hk]

theorem cells_writeCell (c k : CellNo) (v : List Byte) :
    (s.writeCell c v).cells[k.val] = if k = c then some v else s.cells[k.val] := by
  by_cases hk : k = c
  · subst hk; simp
  · have : c.val ≠ k.val := fun e => hk (Fin.ext e.symm)
    simp [this, hk]

theorem cells_freeCell (c k : CellNo) :
    (s.freeCell c).cells[k.val] = if k = c then none else s.cells[k.val] := by
  by_cases hk : k = c
  · subst hk; simp
  · have : c.val ≠ k.val := fun e => hk (Fin.ext e.symm)
    simp [this, hk]

/-- The superframe start at every seat is the superframe start at each. -/
theorem coolSeats_eq_map (seats : Vector Seat 189) : coolSeats seats = seats.map fun v => v.decrement.expire := by
  apply Vector.ext
  intro i hi
  rcases seats with ⟨⟨l⟩, hl⟩
  simp [coolSeats]

/-- Freeing the cells of some entries changes cells alone. -/
theorem freeCellsOf_frame (entries : List FieldEntry) :
    ∀ s : State, s.freeCellsOf entries = { s with cells := (s.freeCellsOf entries).cells } := by
  induction entries with
  | nil => intro s; rfl
  | cons e es ih =>
    intro s
    have := ih (s.freeCell e.cell)
    simp only [State.freeCellsOf, List.foldl_cons] at this ⊢
    rw [this]; rfl

/-- A cell after the cells of some entries are freed. -/
theorem cells_freeCellsOf (entries : List FieldEntry) :
    ∀ (s : State) (c : CellNo), (s.freeCellsOf entries).cells[c.val]
      = if c ∈ entries.map FieldEntry.cell then none else s.cells[c.val] := by
  induction entries with
  | nil => intro s c; simp [State.freeCellsOf]
  | cons e es ih =>
    intro s c
    have := ih (s.freeCell e.cell) c
    simp only [State.freeCellsOf, List.foldl_cons] at this ⊢
    rw [this, cells_freeCell]
    by_cases h1 : c = e.cell <;> by_cases h2 : c ∈ es.map FieldEntry.cell <;> simp_all

/-! ## Searches -/

/-- The record found by a serial is not FREE and carries it (R3). -/
theorem findSerial_some {x : BitVec 32} {h : Handle} (hf : s.findSerial x = some h) :
    (s.record h).state ≠ .free ∧ (s.record h).serial = x := by
  have := List.find?_some hf
  simpa using this

/-- No record is found by a serial exactly if no record that is not FREE carries it (R3). -/
theorem findSerial_none {x : BitVec 32} :
    s.findSerial x = none ↔ ∀ h, (s.record h).state ≠ .free → (s.record h).serial ≠ x := by
  simp [State.findSerial, List.find?_eq_none]

/-- The record that ADMIT takes is FREE (R107). -/
theorem lowestFreeRecord_some {h : Handle} (hf : s.lowestFreeRecord = some h) : (s.record h).state = .free := by
  simpa using List.find?_some hf

/-- The seat given for any seat is FREE (R44). -/
theorem lowestFreeSeat_some {n : SeatNo} (hf : s.lowestFreeSeat = some n) : s.seatState n = .free := by
  simpa using List.find?_some hf

/-- No seat is found for any seat exactly if no seat is FREE (R44). -/
theorem lowestFreeSeat_none : s.lowestFreeSeat = none ↔ ∀ n, s.seatState n ≠ .free := by
  simp [State.lowestFreeSeat, List.find?_eq_none]

/-- The cell that is given is free (R18). -/
theorem lowestFreeCell_some {c : CellNo} (hf : s.lowestFreeCell = some c) : s.cells[c.val] = none := by
  simpa using List.find?_some hf

/-- The handle that READ CHANGED takes is in the changed set (R23). -/
theorem lowestChanged_some {h : Handle} (hf : s.lowestChanged = some h) : s.isChanged h = true :=
  List.find?_some hf

/-- READ CHANGED finds none exactly if the changed set is empty (R23). -/
theorem lowestChanged_none : s.lowestChanged = none ↔ ∀ h, s.isChanged h = false := by
  simp [State.lowestChanged, List.find?_eq_none]

/-- A seat that a claim is given was FREE (R44). -/
theorem claimSeat_ok {request : SeatRequest} {n : SeatNo} (hc : s.claimSeat request = .ok n) : s.seatState n = .free := by
  cases request with
  | named m =>
    simp only [State.claimSeat] at hc
    split at hc
    · cases hc; assumption
    · cases hc
  | any =>
    simp only [State.claimSeat] at hc
    split at hc
    · cases hc
    · rename_i m hm; cases hc; exact lowestFreeSeat_some s hm

/-! ## The port -/

/-- The data output is high-impedance exactly while the part is deselected or in reset. -/
theorem dataOutDriven_eq_false :
    s.dataOutDriven = false ↔ s.inReset = true ∨ s.port.select = .high := by
  unfold State.dataOutDriven
  cases s.inReset <;> simp

@[simp] theorem dataOutDriven_deselect : s.deselect.dataOutDriven = false := by
  rw [dataOutDriven_eq_false]
  exact .inr rfl

@[simp] theorem dataOutDriven_endTransaction (bytes : List Byte) : (s.endTransaction bytes).dataOutDriven = false := by
  rw [dataOutDriven_eq_false]
  exact .inr rfl

/-- The captured status byte of a transaction in progress. -/
theorem captured_selected {status : Byte} (h : s.selected status) : s.captured = some status := by
  simp [State.captured, h.1, h.2]

/-- A command other than READ RESPONSE, taken at the end of its transaction. -/
theorem command_selected {status : Byte} (h : s.selected status) (params : List Byte) (effect : State → State) :
    s.command params effect = .next (effect (s.endTransaction (status :: List.replicate params.length 0))) := by
  simp [State.command, State.takeCommand, captured_selected s h]

/-- A command with no parameters, taken at the end of its transaction. -/
theorem command0_selected {status : Byte} (h : s.selected status) (effect : State → State) :
    s.command0 [] effect = .next (effect (s.endTransaction [status])) := by
  simp [State.command0, command_selected s h]

/-- READ RESPONSE, taken at the end of its transaction. -/
theorem takeCommand_selected {status : Byte} (h : s.selected status) (out : List Byte) (effect : State → State) :
    s.takeCommand out effect = effect (s.endTransaction (status :: out)) := by
  simp [State.takeCommand, captured_selected s h]

/-- A transaction that the port does not take leaves the chip select high and nothing else. -/
theorem command_not_taken (h : s.captured = none) (params : List Byte) (effect : State → State) :
    s.command params effect = .next s.deselect := by
  simp [State.command, State.takeCommand, h]

/-- A last result and a response written after the end of a transaction. -/
theorem reply_endTransaction (status : Byte) (params : List Byte) (c : ResultCode) (b : List Byte) :
    (s.endTransaction (status :: List.replicate params.length 0)).reply c b = s.answered status params c b := rfl

/-- An event taken out of reset. -/
theorem event_taken (h : s.inReset = false) (effect : State → State) : s.event effect = .next (effect s) := by
  simp [State.event, h]

/-- An event in reset has no effect. -/
theorem event_in_reset (h : s.inReset = true) (effect : State → State) : s.event effect = .next s := by
  simp [State.event, h]

/-! ## Event flags -/

theorem word_getLsbD (f g : EventFlag) : f.word.getLsbD g.bit = decide (g = f) := by
  cases f <;> cases g <;> rfl

/-- A flag is its bit of the flag word (R178). -/
theorem flag_eq (f : EventFlag) : s.flag f = s.port.flags.getLsbD f.bit := by
  simp only [State.flag]
  generalize s.port.flags = w
  rw [Bool.eq_iff_iff, bne_iff_ne]
  constructor
  · intro h
    by_contra hb
    apply h
    ext i hi
    have hi9 : i < 9 := hi
    interval_cases i <;> cases f <;> simp_all [EventFlag.word, EventFlag.bit]
  · intro h e
    have := congrArg (fun v => v.getLsbD f.bit) e
    simp [h, word_getLsbD] at this

/-- A flag after a cause has set one. -/
@[simp] theorem flag_setFlag (f g : EventFlag) : (s.setFlag f).flag g = (s.flag g || decide (g = f)) := by
  simp [flag_eq, word_getLsbD]

end Sys2Proof.Machine
end

