-- ==== Sys2Proof/Laws/Edits.lean ====
section
/-! SUPPORT. What a commit does: the list it reads, the checks it makes, and the field list it leaves. -/

namespace Sys2Proof.Machine

/-! ## Reading the staged list -/

theorem lastNaming_cons (id : FieldId) (op : StagedOp) (ops : List StagedOp) :
    lastNaming id (op :: ops) = (lastNaming id ops).or (if op.field? = some id then some op else none) := by
  by_cases h : op.field? = some id <;> simp [lastNaming, h]

theorem lastNaming_concat (id : FieldId) (op : StagedOp) (ops : List StagedOp) :
    lastNaming id (ops ++ [op]) = if op.field? = some id then some op else lastNaming id ops := by
  by_cases h : op.field? = some id <;> simp [lastNaming, h]

/-- The last operation on a field id is a SET or a REMOVE of it. -/
theorem lastNaming_names {id : FieldId} {ops : List StagedOp} {op : StagedOp} (h : lastNaming id ops = some op) :
    (∃ value, op = .set id value) ∨ op = .remove id := by
  have hf : op.field? = some id := by simpa using List.find?_some h
  cases op with
  | set i value => exact .inl ⟨value, by cases hf; rfl⟩
  | remove i => exact .inr (by cases hf; rfl)
  | mode _ => cases hf
  | period _ => cases hf
  | seat _ => cases hf

/-- The last field operation of the model is the last operation that names the field id (R72). -/
theorem lastFieldOp_eq (id : FieldId) (ops : List StagedOp) :
    lastFieldOp id ops = (lastNaming id ops).map fun op => match op with
      | .set _ value => .set value
      | .remove _ => .remove
      | .mode _ => .remove
      | .period _ => .remove
      | .seat _ => .remove := by
  induction ops with
  | nil => rfl
  | cons op ops ih =>
    rw [lastNaming_cons]
    cases op with
    | set i value =>
      by_cases hi : i = id <;> cases hl : lastNaming id ops <;> simp [lastFieldOp, StagedOp.field?, ih, hi, hl]
    | remove i =>
      by_cases hi : i = id <;> cases hl : lastNaming id ops <;> simp [lastFieldOp, StagedOp.field?, ih, hi, hl]
    | mode _ => simp [lastFieldOp, StagedOp.field?, ih]
    | period _ => simp [lastFieldOp, StagedOp.field?, ih]
    | seat _ => simp [lastFieldOp, StagedOp.field?, ih]

theorem lastFieldOp_none {id : FieldId} {ops : List StagedOp} :
    lastFieldOp id ops = none ↔ lastNaming id ops = none := by
  simp [lastFieldOp_eq]

theorem lastFieldOp_set {id : FieldId} {ops : List StagedOp} {value : List Byte} :
    lastFieldOp id ops = some (.set value) ↔ lastNaming id ops = some (.set id value) := by
  rw [lastFieldOp_eq]
  cases h : lastNaming id ops with
  | none => simp
  | some op => rcases lastNaming_names h with ⟨v, rfl⟩ | rfl <;> simp

theorem lastFieldOp_remove {id : FieldId} {ops : List StagedOp} :
    lastFieldOp id ops = some .remove ↔ lastNaming id ops = some (.remove id) := by
  rw [lastFieldOp_eq]
  cases h : lastNaming id ops with
  | none => simp
  | some op => rcases lastNaming_names h with ⟨v, rfl⟩ | rfl <;> simp

theorem lastMode_eq (ops : List StagedOp) : lastMode ops = lastOf StagedOp.mode? ops := by
  unfold lastMode lastOf
  congr 1

theorem lastPeriod_eq (ops : List StagedOp) : lastPeriod ops = lastOf StagedOp.period? ops := by
  unfold lastPeriod lastOf
  congr 1

theorem lastSeat_eq (ops : List StagedOp) : lastSeat ops = lastOf StagedOp.seat? ops := by
  unfold lastSeat lastOf
  congr 1

/-! ## The ids in the working copy (R163) -/

/-- Whether a record has an entry of a field id with its sent flag set. -/
def Record.sentField (r : Record) (id : FieldId) : Bool := r.fields.any fun e => decide (e.id = id) && e.sent

/-- Whether a record has an entry of a field id. -/
def Record.hasField (r : Record) (id : FieldId) : Bool := r.fields.any fun e => decide (e.id = id)

theorem hasField_of_sentField {r : Record} {id : FieldId} (h : r.sentField id = true) : r.hasField id = true := by
  simp only [Record.sentField, Record.hasField, List.any_eq_true, Bool.and_eq_true] at h ⊢
  obtain ⟨e, he, h1, _⟩ := h
  exact ⟨e, he, h1⟩

@[simp] theorem presentAfter_nil (r : Record) (id : FieldId) : r.presentAfter [] id = r.hasField id := rfl

theorem presentAfter_concat (r : Record) (ops : List StagedOp) (op : StagedOp) (id : FieldId) :
    r.presentAfter (ops ++ [op]) id = r.presentStep id (r.presentAfter ops id) op := by
  simp [Record.presentAfter]

/-- An id is present in the copy by the last operation that names it (R163). -/
theorem presentAfter_eq (r : Record) (ops : List StagedOp) (id : FieldId) :
    r.presentAfter ops id = match lastNaming id ops with
      | none => r.hasField id
      | some (.set _ _) => true
      | some (.remove _) => r.sentField id
      | some (.mode _) => r.hasField id
      | some (.period _) => r.hasField id
      | some (.seat _) => r.hasField id := by
  induction ops using List.reverseRecOn with
  | nil => rfl
  | append_singleton ops op ih =>
    rw [presentAfter_concat, lastNaming_concat]
    cases op with
    | set i value =>
      by_cases hi : i = id
      · simp [Record.presentStep, StagedOp.field?, hi]
      · simpa [Record.presentStep, StagedOp.field?, hi] using ih
    | remove i =>
      by_cases hi : i = id
      · have hs : r.sentField id = true → r.presentAfter ops id = true := by
          intro h
          rw [ih]
          cases hl : lastNaming id ops with
          | none => exact hasField_of_sentField h
          | some op => rcases lastNaming_names hl with ⟨v, rfl⟩ | rfl <;> simp [h]
        have hd : r.presentStep id (r.presentAfter ops id) (.remove i) = (r.presentAfter ops id && r.sentField id) := by
          simp [Record.presentStep, Record.sentField, hi]
        rw [hd]
        simp only [StagedOp.field?, hi, if_true]
        cases h : r.sentField id <;> simp_all
      · simpa [Record.presentStep, StagedOp.field?, hi] using ih
    | mode _ => simpa [Record.presentStep, StagedOp.field?] using ih
    | period _ => simpa [Record.presentStep, StagedOp.field?] using ih
    | seat _ => simpa [Record.presentStep, StagedOp.field?] using ih

/-- The walk that finds a REMOVE of an absent id, against the ids present before it (R163, check 1 of R164). -/
theorem removeFails_from (r : Record) (ops : List StagedOp) : ∀ (pre : List StagedOp) (present : List FieldId),
    (∀ id, id ∈ present ↔ r.presentAfter pre id = true) →
    (removeFails r present ops = true ↔
      ∃ before id after, ops = before ++ .remove id :: after ∧ r.presentAfter (pre ++ before) id = false) := by
  induction ops with
  | nil => intro pre present _; simp [removeFails]
  | cons op ops ih =>
    intro pre present hp
    have step : ∀ present' : List FieldId, (∀ id, id ∈ present' ↔ r.presentAfter (pre ++ [op]) id = true) →
        (∀ id, op = .remove id → id ∈ present) →
        (removeFails r present' ops = true ↔
          ∃ before id after, op :: ops = before ++ .remove id :: after ∧ r.presentAfter (pre ++ before) id = false) := by
      intro present' hp' hop
      rw [ih (pre ++ [op]) present' hp']
      constructor
      · rintro ⟨before, id, after, rfl, hf⟩
        exact ⟨op :: before, id, after, rfl, by simpa using hf⟩
      · rintro ⟨before, id, after, he, hf⟩
        cases before with
        | nil =>
          simp only [List.nil_append, List.cons.injEq] at he
          have := (hp id).mp (hop id he.1)
          simp_all
        | cons b before =>
          simp only [List.cons_append, List.cons.injEq] at he
          obtain ⟨rfl, rfl⟩ := he
          exact ⟨before, id, after, rfl, by simpa using hf⟩
    cases op with
    | set i value =>
      refine step _ (fun id => ?_) (by simp)
      rw [presentAfter_concat]
      simp only [Record.presentStep, List.mem_cons, hp, Bool.or_eq_true, decide_eq_true_eq]
      exact Or.comm.trans (or_congr_right eq_comm)
    | remove i =>
      simp only [removeFails, List.contains_eq_mem]
      by_cases hi : i ∈ present
      · simp only [hi, decide_true, if_true]
        refine step _ (fun id => ?_) (by rintro id h; cases h; exact hi)
        rw [presentAfter_concat]
        have hs : (r.fields.any fun e => e.id == i && e.sent) = r.sentField i := by simp [Record.sentField, beq_eq_decide]
        rw [hs]
        by_cases hid : i = id
        · subst hid
          have hpi := (hp i).mp hi
          have hd : r.presentStep i (r.presentAfter pre i) (.remove i) = r.sentField i := by
            simp [Record.presentStep, Record.sentField, hpi]
          rw [hd]
          cases h : r.sentField i <;> simp [hi]
        · have hd : r.presentStep id (r.presentAfter pre id) (.remove i) = r.presentAfter pre id := by
            simp [Record.presentStep, hid]
          rw [hd, ← hp]
          split
          · rfl
          · simp [Ne.symm hid]
      · simp only [hi, decide_false, Bool.false_eq_true, if_false, true_iff]
        have : r.presentAfter pre i = false := by
          rw [← Bool.not_eq_true, ← hp]; exact hi
        exact ⟨[], i, ops, rfl, by simpa using this⟩
    | mode m =>
      refine step _ (fun id => ?_) (by simp)
      rw [presentAfter_concat]; exact hp id
    | period e =>
      refine step _ (fun id => ?_) (by simp)
      rw [presentAfter_concat]; exact hp id
    | seat n =>
      refine step _ (fun id => ?_) (by simp)
      rw [presentAfter_concat]; exact hp id

/-- Check 1 of R164: a REMOVE meets an id absent from the copy at its step. -/
theorem removeFails_iff (r : Record) (ops : List StagedOp) :
    removeFails r (r.fields.map (·.id)) ops = true ↔
      ∃ before id after, ops = before ++ .remove id :: after ∧ r.presentAfter before id = false := by
  have := removeFails_from r ops [] (r.fields.map (·.id)) (fun id => by simp [Record.hasField])
  simpa using this

/-! ## The entries kept, dropped and created -/

section Entries

variable (s : State) (h : Handle) (ops : List StagedOp)

/-- An entry is dropped exactly if its id is absent from the copy (R72), where a REMOVING entry was sent. -/
theorem entryFate_dropped {e : FieldEntry} (he : e ∈ (s.record h).fields)
    (order : ((s.record h).fields.map FieldEntry.id).Pairwise (· < ·)) (removing : e.removing = true → e.sent = true) :
    s.entryFate h ops e = .dropped ↔ (s.record h).presentAfter ops e.id = false := by
  have hhas : (s.record h).hasField e.id = true := by
    simp only [Record.hasField, List.any_eq_true, decide_eq_true_eq]; exact ⟨e, he, rfl⟩
  have hsent : (s.record h).sentField e.id = e.sent := by
    have huniq : ∀ f ∈ (s.record h).fields, f.id = e.id → f = e := fun f hf hid =>
      List.inj_on_of_nodup_map (order.imp fun hlt => ne_of_lt hlt) hf he hid
    rw [Bool.eq_iff_iff]
    simp only [Record.sentField, List.any_eq_true, Bool.and_eq_true, decide_eq_true_eq]
    exact ⟨fun ⟨f, hf, hid, hs⟩ => huniq f hf hid ▸ hs, fun hs => ⟨e, he, rfl, hs⟩⟩
  rw [presentAfter_eq]
  unfold State.entryFate
  rw [lastFieldOp_eq]
  cases hl : lastNaming e.id ops with
  | none => simp [hhas]
  | some op =>
    rcases lastNaming_names hl with ⟨v, rfl⟩ | rfl
    · simp only [Option.map_some]
      split
      · simp
      · split <;> simp
    · simp only [Option.map_some, hsent]
      cases hr : e.removing <;> cases hs : e.sent <;> simp_all

end Entries

/-- The number of field ids of a kind that a record holds is the number of its entries of that kind. -/
theorem countP_fields (fields : List FieldEntry) (order : (fields.map FieldEntry.id).Pairwise (· < ·))
    (kind : FieldId → Bool) :
    ((List.finRange 16).countP fun id => fields.any (fun e => decide (e.id = id)) && kind id) =
      (fields.filter fun e => kind e.id).length := by
  have hnd : (fields.map FieldEntry.id).Nodup := order.imp fun hlt => ne_of_lt hlt
  have hperm : ((List.finRange 16).filter fun id => fields.any (fun e => decide (e.id = id)) && kind id).Perm
      ((fields.filter fun e => kind e.id).map FieldEntry.id) := by
    refine (List.perm_ext_iff_of_nodup ((List.nodup_finRange 16).filter _) ?_).mpr fun id => ?_
    · exact hnd.sublist (List.filter_sublist.map _)
    · simp only [List.mem_filter, List.mem_finRange, true_and, Bool.and_eq_true, List.any_eq_true, decide_eq_true_eq,
        List.mem_map]
      constructor
      · rintro ⟨⟨e, he, rfl⟩, hk⟩; exact ⟨e, ⟨he, hk⟩, rfl⟩
      · rintro ⟨e, ⟨he, hk⟩, rfl⟩; exact ⟨⟨e, he, rfl⟩, hk⟩
  rw [List.countP_eq_length_filter, hperm.length_eq, List.length_map]

theorem entry?_none {r : Record} {id : FieldId} : r.entry? id = none ↔ r.hasField id = false := by
  simp [Record.entry?, Record.hasField, List.find?_eq_none]

/-- The fields that a commit creates are those absent before it whose last operation is a SET (R72). -/
theorem mem_createdFields {r : Record} {ops : List StagedOp} {id : FieldId} {value : List Byte} :
    (id, value) ∈ createdFields r ops ↔ r.hasField id = false ∧ lastNaming id ops = some (.set id value) := by
  rw [← entry?_none, ← lastFieldOp_set]
  simp only [createdFields, List.mem_filterMap, List.mem_finRange, true_and]
  constructor
  · rintro ⟨i, hi⟩
    split at hi <;> simp_all
  · rintro ⟨h1, h2⟩
    exact ⟨id, by simp [h1, h2]⟩

/-- Created fields stand in ascending field id. -/
theorem createdFields_ascending (r : Record) (ops : List StagedOp) :
    ((createdFields r ops).map Prod.fst).Pairwise (· < ·) := by
  have hsub : ((createdFields r ops).map Prod.fst).Sublist (List.finRange 16) := by
    unfold createdFields
    generalize List.finRange 16 = l
    induction l with
    | nil => simp
    | cons i l ih =>
      rw [List.filterMap_cons]
      split
      · exact ih.cons i
      · rename_i b hb
        have : b.1 = i := by split at hb <;> simp_all [eq_comm]
        rw [List.map_cons, this]
        exact ih.cons_cons i
  exact (List.pairwise_lt_finRange 16).sublist hsub

theorem createdFields_length (r : Record) (ops : List StagedOp) :
    (createdFields r ops).length =
      (List.finRange 16).countP fun id => r.presentAfter ops id && !r.presentAfter [] id := by
  unfold createdFields
  rw [List.length_filterMap_eq_countP]
  congr 1
  funext id
  rw [presentAfter_eq, presentAfter_nil, lastFieldOp_eq]
  cases he : r.entry? id with
  | none =>
    have hh := entry?_none.mp he
    have hs : r.sentField id = false := by
      rw [← Bool.not_eq_true]; intro h; simp [hasField_of_sentField h] at hh
    cases hl : lastNaming id ops with
    | none => simp [hh]
    | some op => rcases lastNaming_names hl with ⟨v, rfl⟩ | rfl <;> simp [hh, hs]
  | some e =>
    have hh : r.hasField id = true := by
      rw [← Bool.not_eq_false]; intro h; rw [entry?_none.mpr h] at he; cases he
    simp [hh]

section Counts

variable (s : State) (h : Handle) (ops : List StagedOp)
  (order : ((s.record h).fields.map FieldEntry.id).Pairwise (· < ·))
  (removing : ∀ e ∈ (s.record h).fields, e.removing = true → e.sent = true)

include order removing

theorem mem_droppedEntries {e : FieldEntry} :
    e ∈ s.droppedEntries h ops ↔ e ∈ (s.record h).fields ∧ (s.record h).presentAfter ops e.id = false := by
  simp only [State.droppedEntries, List.mem_filter, decide_eq_true_eq]
  exact and_congr_right fun he => entryFate_dropped s h ops he order (removing e he)

theorem droppedEntries_length :
    (s.droppedEntries h ops).length =
      (List.finRange 16).countP fun id =>
        (s.record h).presentAfter [] id && !(s.record h).presentAfter ops id := by
  simp only [presentAfter_nil]
  have := countP_fields _ order fun id => !(s.record h).presentAfter ops id
  unfold Record.hasField
  rw [this]
  congr 1
  refine List.filter_congr fun e he => ?_
  rw [Bool.eq_iff_iff, decide_eq_true_eq, entryFate_dropped s h ops he order (removing e he)]
  simp

/-- The entries that the copy holds are those of the ids present in it (check 2 of R164). -/
theorem copySize_eq :
    s.copySize h ops = (List.finRange 16).countP ((s.record h).presentAfter ops) := by
  have hkept : (s.committedEntries h ops).length =
      (List.finRange 16).countP fun id =>
        (s.record h).hasField id && (s.record h).presentAfter ops id := by
    have := countP_fields _ order ((s.record h).presentAfter ops)
    unfold Record.hasField
    rw [this, State.committedEntries, List.length_filterMap_eq_countP, ← List.countP_eq_length_filter]
    refine List.countP_congr fun e he => ?_
    have hd := entryFate_dropped s h ops he order (removing e he)
    cases hf : s.entryFate h ops e <;> simp_all [EntryFate.entry?]
  rw [State.copySize, hkept, createdFields_length]
  generalize List.finRange 16 = l
  induction l with
  | nil => rfl
  | cons id l ih =>
    simp only [List.countP_cons, presentAfter_nil] at ih ⊢
    rw [← ih]
    cases (s.record h).presentAfter ops id <;> cases (s.record h).hasField id <;> simp +arith

end Counts

/-! ## Cells -/

/-- The free cells are counted in the list of the cells. -/
theorem countP_set_cells (l : List (Option (List Byte))) : ∀ (i : Nat) (v : Option (List Byte)), (hi : i < l.length) →
    (l.set i v).countP Option.isNone + (l[i]).isNone.toNat = l.countP Option.isNone + v.isNone.toNat := by
  induction l with
  | nil => intro i v hi; simp at hi
  | cons a l ih =>
    intro i v hi
    cases i with
    | zero =>
      simp only [List.set_cons_zero, List.countP_cons, List.getElem_cons_zero]
      cases a <;> cases v <;> simp
    | succ i =>
      have := ih i v (by simpa using hi)
      simp only [List.set_cons_succ, List.countP_cons, List.getElem_cons_succ] at this ⊢
      omega

theorem freeCellCount_set (s : State) (c : CellNo) (v : Option (List Byte)) :
    ({ s with cells := s.cells.set c.val v } : State).freeCellCount + (s.cells[c.val]).isNone.toNat =
      s.freeCellCount + v.isNone.toNat := by
  have := countP_set_cells s.cells.toList c.val v (by simp)
  simpa [State.freeCellCount, Vector.toList_set] using this

/-- Writing a cell in use leaves the number of free cells. -/
theorem freeCellCount_writeCell_used (s : State) (c : CellNo) (v : List Byte) (hc : s.cells[c.val] ≠ none) :
    (s.writeCell c v).freeCellCount = s.freeCellCount := by
  have := freeCellCount_set s c (some v)
  cases h : s.cells[c.val] <;> simp_all [State.writeCell]

/-- Taking a free cell leaves one free cell less. -/
theorem freeCellCount_writeCell_free (s : State) (c : CellNo) (v : List Byte) (hc : s.cells[c.val] = none) :
    (s.writeCell c v).freeCellCount + 1 = s.freeCellCount := by
  have := freeCellCount_set s c (some v)
  simpa [hc, State.writeCell] using this

/-- Returning a cell in use leaves one free cell more. -/
theorem freeCellCount_freeCell_used (s : State) (c : CellNo) (hc : s.cells[c.val] ≠ none) :
    (s.freeCell c).freeCellCount = s.freeCellCount + 1 := by
  have := freeCellCount_set s c none
  cases h : s.cells[c.val] <;> simp_all [State.freeCell]

/-- Returning distinct cells in use. -/
theorem freeCellCount_freeCellsOf (entries : List FieldEntry) : ∀ s : State, (entries.map FieldEntry.cell).Nodup →
    (∀ e ∈ entries, s.cells[e.cell.val] ≠ none) →
    (s.freeCellsOf entries).freeCellCount = s.freeCellCount + entries.length := by
  induction entries with
  | nil => intro s _ _; rfl
  | cons e es ih =>
    intro s hnd hu
    rw [List.map_cons, List.nodup_cons] at hnd
    have := ih (s.freeCell e.cell) hnd.2 fun f hf => by
      rw [cells_freeCell]
      have : f.cell ≠ e.cell := fun h => hnd.1 (h ▸ List.mem_map_of_mem hf)
      rw [if_neg this]
      exact hu f (List.mem_cons_of_mem _ hf)
    show ((s.freeCell e.cell).freeCellsOf es).freeCellCount = _
    rw [this, freeCellCount_freeCell_used s _ (hu e List.mem_cons_self), List.length_cons]
    omega

/-- Write values into cells. -/
abbrev State.writeCells (s : State) (writes : List (CellNo × List Byte)) : State :=
  writes.foldl (fun s w => s.writeCell w.1 w.2) s

/-- Writing into cells in use changes those cells alone, and keeps the number of free cells. -/
theorem writeCells_spec (writes : List (CellNo × List Byte)) : ∀ s : State, (writes.map Prod.fst).Nodup →
    (∀ w ∈ writes, s.cells[w.1.val] ≠ none) →
    s.writeCells writes = { s with cells := (s.writeCells writes).cells } ∧
      (s.writeCells writes).freeCellCount = s.freeCellCount ∧
      (∀ w ∈ writes, (s.writeCells writes).cells[w.1.val] = some w.2) ∧
      ∀ c : CellNo, c ∉ writes.map Prod.fst → (s.writeCells writes).cells[c.val] = s.cells[c.val] := by
  induction writes with
  | nil => intro s _ _; exact ⟨rfl, rfl, by simp, fun _ _ => rfl⟩
  | cons w ws ih =>
    intro s hnd hu
    rw [List.map_cons, List.nodup_cons] at hnd
    obtain ⟨h1, h2, h3, h4⟩ := ih (s.writeCell w.1 w.2) hnd.2 fun v hv => by
      rw [cells_writeCell]
      split
      · simp
      · exact hu v (List.mem_cons_of_mem _ hv)
    refine ⟨?_, ?_, ?_, ?_⟩
    · show (s.writeCell w.1 w.2).writeCells ws = _
      rw [h1]; rfl
    · show ((s.writeCell w.1 w.2).writeCells ws).freeCellCount = _
      rw [h2, freeCellCount_writeCell_used s _ _ (hu w List.mem_cons_self)]
    · intro v hv
      show ((s.writeCell w.1 w.2).writeCells ws).cells[v.1.val] = _
      rcases List.mem_cons.mp hv with rfl | hv
      · rw [h4 _ hnd.1, cells_writeCell, if_pos rfl]
      · exact h3 v hv
    · intro c hc
      rw [List.map_cons, List.mem_cons, not_or] at hc
      show ((s.writeCell w.1 w.2).writeCells ws).cells[c.val] = _
      rw [h4 c hc.2, cells_writeCell, if_neg hc.1]

/-- The lowest free cell, where one is free (R18). -/
theorem lowestFreeCell_of_pos (s : State) (hf : 0 < s.freeCellCount) :
    ∃ c, s.lowestFreeCell = some c ∧ s.cells[c.val] = none ∧ ∀ d : CellNo, d < c → s.cells[d.val] ≠ none := by
  have hex : ∃ c : CellNo, s.cells[c.val] = none := by
    obtain ⟨v, hv, hn⟩ := List.countP_pos_iff.mp hf
    obtain ⟨i, hi, rfl⟩ := List.mem_iff_getElem.mp hv
    exact ⟨⟨i, by simpa using hi⟩, by simpa using hn⟩
  obtain ⟨c0, h0⟩ := hex
  cases hl : s.lowestFreeCell with
  | none =>
    have := List.find?_eq_none.mp hl c0 (List.mem_finRange c0)
    simp [h0] at this
  | some c =>
    refine ⟨c, rfl, lowestFreeCell_some s hl, fun d hd => ?_⟩
    obtain ⟨hc, before, after, hsplit, hbefore⟩ := List.find?_eq_some_iff_append.mp hl
    have hmem : d ∈ before := by
      have hall : d ∈ before ++ c :: after := hsplit ▸ List.mem_finRange d
      rcases List.mem_append.mp hall with hb | hb
      · exact hb
      · have hp := List.pairwise_lt_finRange 512
        rw [hsplit, List.pairwise_append] at hp
        rcases List.mem_cons.mp hb with rfl | ha
        · exact absurd hd (lt_irrefl _)
        · exact absurd hd (not_lt_of_gt ((List.pairwise_cons.mp hp.2.1).1 d ha))
    have := hbefore d hmem
    cases hv : s.cells[d.val] <;> simp_all

/-! ## Creating fields -/

theorem mem_insertEntry {e x : FieldEntry} {l : List FieldEntry} : e ∈ insertEntry x l ↔ e = x ∨ e ∈ l := by
  induction l with
  | nil => simp [insertEntry]
  | cons a l ih =>
    unfold insertEntry
    split
    · simp
    · simp only [List.mem_cons, ih]
      exact ⟨fun h => h.elim (fun h => .inr (.inl h)) (fun h => h.imp_right .inr),
        fun h => h.elim (fun h => .inr (.inl h)) (fun h => h.imp_right .inr)⟩

theorem insertEntry_ascending {x : FieldEntry} {l : List FieldEntry} (hl : (l.map FieldEntry.id).Pairwise (· < ·))
    (hx : ∀ e ∈ l, e.id ≠ x.id) : ((insertEntry x l).map FieldEntry.id).Pairwise (· < ·) := by
  induction l with
  | nil => simp [insertEntry]
  | cons a l ih =>
    rw [List.map_cons, List.pairwise_cons] at hl
    unfold insertEntry
    split
    · rename_i hlt
      rw [List.map_cons, List.pairwise_cons]
      refine ⟨fun i hi => ?_, by rw [List.map_cons, List.pairwise_cons]; exact hl⟩
      rcases List.mem_cons.mp hi with rfl | hi
      · exact hlt
      · exact lt_trans hlt (hl.1 i hi)
    · rename_i hlt
      rw [List.map_cons, List.pairwise_cons]
      refine ⟨fun i hi => ?_, ih hl.2 fun e he => hx e (List.mem_cons_of_mem _ he)⟩
      obtain ⟨e, he, rfl⟩ := List.mem_map.mp hi
      rcases mem_insertEntry.mp he with rfl | he
      · exact lt_of_le_of_ne (not_lt.mp hlt) (hx a List.mem_cons_self)
      · exact hl.1 _ (List.mem_map_of_mem he)

/-- Create these fields, one after another. -/
abbrev State.createFields (s : State) (h : Handle) (fields : List (FieldId × List Byte)) : State :=
  fields.foldl (fun s f => s.createField h f.1 f.2) s

/-- `t` is `s` with these fields created in the record at `h`. -/
structure FieldsCreated (s t : State) (h : Handle) (fields : List (FieldId × List Byte)) : Prop where
  frame : t = { s with records := t.records, cells := t.cells }
  others : ∀ k, k ≠ h → t.record k = s.record k
  record : t.record h = { s.record h with fields := (t.record h).fields }
  ascending : ((t.record h).fields.map FieldEntry.id).Pairwise (· < ·)
  old : ∀ e ∈ (s.record h).fields, e ∈ (t.record h).fields
  new : ∀ e ∈ (t.record h).fields, e ∈ (s.record h).fields ∨
    ∃ f ∈ fields, e = .new f.1 e.cell ∧ s.cells[e.cell.val] = none ∧ t.cells[e.cell.val] = some f.2
  created : ∀ f ∈ fields, ∃ c : CellNo, .new f.1 c ∈ (t.record h).fields ∧ s.cells[c.val] = none ∧
    t.cells[c.val] = some f.2 ∧ ∀ d : CellNo, d < c → t.cells[d.val] ≠ none
  used : ∀ c : CellNo, s.cells[c.val] ≠ none → t.cells[c.val] = s.cells[c.val]
  free : ∀ c : CellNo, s.cells[c.val] = none → t.cells[c.val] ≠ none → ∃ e ∈ (t.record h).fields, e.cell = c

/-- With a free cell for each, absent fields are created (R15, R16, R18). -/
theorem createFields_spec (h : Handle) (fields : List (FieldId × List Byte)) : ∀ s : State,
    (fields.map Prod.fst).Nodup → (∀ f ∈ fields, ∀ e ∈ (s.record h).fields, e.id ≠ f.1) →
    ((s.record h).fields.map FieldEntry.id).Pairwise (· < ·) → fields.length ≤ s.freeCellCount →
    FieldsCreated s (s.createFields h fields) h fields := by
  induction fields with
  | nil =>
    intro s _ _ order _
    exact ⟨rfl, fun _ _ => rfl, rfl, order, fun _ he => he, fun _ he => .inl he, by simp, fun _ _ => rfl,
      fun _ h1 h2 => absurd h1 h2⟩
  | cons f fs ih =>
    intro s hnd habsent order hroom
    rw [List.map_cons, List.nodup_cons] at hnd
    rw [List.length_cons] at hroom
    obtain ⟨n, hn⟩ : ∃ n, n = s.freeCellCount := ⟨_, rfl⟩
    rw [← hn] at hroom
    obtain ⟨c, hc, hfree, hlow⟩ := lowestFreeCell_of_pos s (hn ▸ by omega)
    have hstep : s.createField h f.1 f.2 =
        (s.writeCell c f.2).setRecord h
          { s.record h with fields := insertEntry (.new f.1 c) (s.record h).fields } := by
      unfold State.createField
      generalize s.lowestFreeCell = o at hc
      subst hc
      simp only [State.modifyRecord, record_writeCell]
    have hrec : ((s.createField h f.1 f.2).record h) =
        { s.record h with fields := insertEntry (.new f.1 c) (s.record h).fields } := by
      rw [hstep, record_setRecord_self]
    have hcell : ∀ d : CellNo, (s.createField h f.1 f.2).cells[d.val] = if d = c then some f.2 else s.cells[d.val] := by
      intro d; rw [hstep]; exact cells_writeCell s c d f.2
    obtain ⟨m, hm⟩ : ∃ m, m = (s.createField h f.1 f.2).freeCellCount := ⟨_, rfl⟩
    have hcount : m + 1 = n := by
      rw [hm, hn, hstep]; exact freeCellCount_writeCell_free s c f.2 hfree
    have habs : ∀ g ∈ fs, ∀ e ∈ ((s.createField h f.1 f.2).record h).fields, e.id ≠ g.1 := by
      intro g hg e he
      rw [hrec] at he
      rcases mem_insertEntry.mp he with rfl | he
      · exact fun heq => hnd.1 (List.mem_map.mpr ⟨g, hg, heq.symm⟩)
      · exact habsent g (List.mem_cons_of_mem _ hg) e he
    have hord : (((s.createField h f.1 f.2).record h).fields.map FieldEntry.id).Pairwise (· < ·) := by
      rw [hrec]; exact insertEntry_ascending order (habsent f List.mem_cons_self)
    have r := ih (s.createField h f.1 f.2) hnd.2 habs hord (hm ▸ by omega)
    have hgo : s.createFields h (f :: fs) = (s.createField h f.1 f.2).createFields h fs := List.foldl_cons ..
    rw [hgo]
    generalize (s.createField h f.1 f.2).createFields h fs = t at r
    have hin : FieldEntry.new f.1 c ∈ (t.record h).fields := r.old _ (by rw [hrec]; exact mem_insertEntry.mpr (.inl rfl))
    have hct : t.cells[c.val] = some f.2 := by
      rw [r.used c (by rw [hcell, if_pos rfl]; simp), hcell, if_pos rfl]
    have hkeep : ∀ d : CellNo, s.cells[d.val] ≠ none → t.cells[d.val] = s.cells[d.val] := by
      intro d hd
      have hne : d ≠ c := fun e => hd (e ▸ hfree)
      rw [r.used d (by rwa [hcell, if_neg hne]), hcell, if_neg hne]
    refine ⟨?_, ?_, ?_, r.ascending, ?_, ?_, ?_, hkeep, ?_⟩
    · rw [r.frame, hstep]; rfl
    · intro k hk
      rw [r.others k hk, hstep, record_setRecord_ne _ _ hk, record_writeCell]
    · rw [r.record, hrec]
    · exact fun e he => r.old e (by rw [hrec]; exact mem_insertEntry.mpr (.inr he))
    · intro e he
      rcases r.new e he with he | ⟨g, hg, h1, h2, h3⟩
      · rw [hrec] at he
        rcases mem_insertEntry.mp he with rfl | he
        · exact .inr ⟨f, List.mem_cons_self, rfl, hfree, hct⟩
        · exact .inl he
      · refine .inr ⟨g, List.mem_cons_of_mem _ hg, h1, ?_, h3⟩
        rw [hcell] at h2
        split at h2
        · cases h2
        · exact h2
    · intro g hg
      rcases List.mem_cons.mp hg with rfl | hg
      · exact ⟨c, hin, hfree, hct, fun d hd => by rw [hkeep d (hlow d hd)]; exact hlow d hd⟩
      · obtain ⟨d, h1, h2, h3, h4⟩ := r.created g hg
        refine ⟨d, h1, ?_, h3, h4⟩
        rw [hcell] at h2
        split at h2
        · cases h2
        · exact h2
    · intro d h1 h2
      by_cases hd : d = c
      · exact ⟨_, hin, hd.symm⟩
      · exact r.free d (by rwa [hcell, if_neg hd]) h2

/-! ## The fields of a commit (R165) -/

/-- The version in flight, as the version rule reads it (R73). -/
theorem inFlightVersion_some {s : State} {h : Handle} {id : FieldId} {v : BitVec 8} :
    s.inFlightVersion h id = some v ↔ s.versionInFlight h id v := by
  unfold State.inFlightVersion State.versionInFlight
  constructor
  · intro hv
    split at hv
    · rename_i turn hc
      split at hv
      · rename_i hl
        split at hv
        · rename_i items hw
          exact ⟨turn, items, hc, hl.1, hl.2, hw, hv⟩
        all_goals cases hv
      · cases hv
    all_goals cases hv
  · rintro ⟨turn, items, hc, h1, h2, hw, hv⟩
    simp only [hc, h1, h2, hw, and_self, if_true]
    exact hv

/-- A stepped version is the next version of R73. -/
theorem isNextVersion_steppedVersion (s : State) (h : Handle) (e : FieldEntry) :
    s.isNextVersion h e (s.steppedVersion h e) := by
  obtain ⟨n, h1, h4, hv, hnot, hall⟩ := nextVersion_spec e.desired
    (e.confirmed.toList ++ e.refused.toList ++ (s.inFlightVersion h e.id).toList) (by
      cases e.confirmed <;> cases e.refused <;> cases s.inFlightVersion h e.id <;> simp)
  have passed : ∀ w, w ∈ e.confirmed.toList ++ e.refused.toList ++ (s.inFlightVersion h e.id).toList ↔
      (e.confirmed = some w ∨ e.refused = some w ∨ s.versionInFlight h e.id w) := fun w => by
    simp only [List.mem_append, Option.mem_toList, inFlightVersion_some, or_assoc]
  exact ⟨n, h1, h4, hv, fun hp => hnot ((passed _).mpr hp), fun m hm hn => (passed _).mp (hall m hm hn)⟩

/-- A field list depends on the fields of the records and on the cells alone. -/
theorem CommittedFields.congr {s t u : State} {h : Handle} {ops : List StagedOp} (c : CommittedFields s t h ops)
    (records : ∀ k, (u.record k).fields = (t.record k).fields) (cells : u.cells = t.cells) :
    CommittedFields s u h ops := by
  have hcell : ∀ e, u.cellOf e = t.cellOf e := fun e => by unfold State.cellOf; rw [cells]
  constructor <;> simp only [records, cells, hcell]
  exacts [c.ascending, c.present, c.unnamed, c.same, c.written, c.dropped, c.marked, c.created, c.pool, c.others]

section CommitFields

variable (s : State) (h : Handle) (ops : List StagedOp)

theorem entryFate_kept_id {e f : FieldEntry} (hf : (s.entryFate h ops e).entry? = some f) :
    f.id = e.id ∧ f.cell = e.cell := by
  unfold State.entryFate at hf
  split at hf
  · cases hf; exact ⟨rfl, rfl⟩
  · split at hf
    · cases hf; exact ⟨rfl, rfl⟩
    · split at hf <;> · cases hf; exact ⟨rfl, rfl⟩
  · split at hf
    · cases hf; exact ⟨rfl, rfl⟩
    · split at hf
      · cases hf; exact ⟨rfl, rfl⟩
      · cases hf

theorem mem_committedEntries {f : FieldEntry} :
    f ∈ s.committedEntries h ops ↔ ∃ e ∈ (s.record h).fields, (s.entryFate h ops e).entry? = some f :=
  List.mem_filterMap

theorem mem_cellWrites {w : CellNo × List Byte} :
    w ∈ s.cellWrites h ops ↔ ∃ e ∈ (s.record h).fields, (s.entryFate h ops e).write? = some w :=
  List.mem_filterMap

theorem write?_some {fate : EntryFate} {w : CellNo × List Byte} (hw : fate.write? = some w) :
    ∃ f, fate = .written f w.2 ∧ f.cell = w.1 := by
  cases fate with
  | written f value => cases hw; exact ⟨f, rfl, rfl⟩
  | kept f => cases hw
  | dropped => cases hw

theorem committedEntries_ascending (order : ((s.record h).fields.map FieldEntry.id).Pairwise (· < ·)) :
    ((s.committedEntries h ops).map FieldEntry.id).Pairwise (· < ·) := by
  refine order.sublist ?_
  unfold State.committedEntries
  induction (s.record h).fields with
  | nil => simp
  | cons e l ih =>
    rw [List.filterMap_cons]
    split
    · exact ih.cons e.id
    · rename_i f hf
      rw [List.map_cons, List.map_cons, (entryFate_kept_id s h ops hf).1]
      exact ih.cons_cons e.id

theorem written_cell {e f : FieldEntry} {value : List Byte} (hf : s.entryFate h ops e = .written f value) :
    f.cell = e.cell :=
  (entryFate_kept_id s h ops (f := f) (by rw [hf]; rfl)).2

theorem cellWrites_sublist :
    ((s.cellWrites h ops).map Prod.fst).Sublist ((s.record h).fields.map FieldEntry.cell) := by
  unfold State.cellWrites
  induction (s.record h).fields with
  | nil => simp
  | cons e l ih =>
    rw [List.filterMap_cons]
    split
    · exact ih.cons e.cell
    · rename_i w hw
      obtain ⟨f, h1, h2⟩ := write?_some hw
      rw [List.map_cons, List.map_cons, ← h2, written_cell s h ops h1]
      exact ih.cons_cons e.cell

/-- A write of a commit is that of an entry whose fate it is. -/
theorem cellWrites_fate {w : CellNo × List Byte} (hw : w ∈ s.cellWrites h ops) :
    ∃ e ∈ (s.record h).fields, e.cell = w.1 ∧ ∃ f, s.entryFate h ops e = .written f w.2 := by
  obtain ⟨e, he, hf⟩ := (mem_cellWrites s h ops).mp hw
  obtain ⟨f, h1, h2⟩ := write?_some hf
  exact ⟨e, he, by rw [← h2, written_cell s h ops h1], f, h1⟩

variable (fields : FieldInvariant s) (cells : CellInvariant s)

include fields cells

/-- The state before the fields of a commit are created: the cells of dropped entries are back, and changed values are
written into their entries' own cells. -/
theorem commitFields_before :
    ∃ u : State, s.commitFields h ops = u.createFields h (createdFields (s.record h) ops) ∧
      u = { s with records := u.records, cells := u.cells } ∧
      (∀ k, k ≠ h → u.record k = s.record k) ∧
      u.record h = { s.record h with fields := s.committedEntries h ops } ∧
      u.freeCellCount = s.freeCellCount + (s.droppedEntries h ops).length ∧
      (∀ e ∈ (s.record h).fields, u.cells[e.cell.val] = match s.entryFate h ops e with
        | .kept _ => s.cells[e.cell.val]
        | .written _ value => some value
        | .dropped => none) ∧
      ∀ c : CellNo, (∀ e ∈ (s.record h).fields, e.cell ≠ c) → u.cells[c.val] = s.cells[c.val] := by
  have hown : ∀ e ∈ (s.record h).fields, s.cells[e.cell.val] ≠ none := fun e he => by
    obtain ⟨v, hv, _⟩ := cells.owned h e he
    have : s.cells[e.cell.val] = some v := hv
    rw [this]; simp
  have hinj : ∀ e ∈ (s.record h).fields, ∀ f ∈ (s.record h).fields, e.cell = f.cell → e = f :=
    fun e he f hf hc => (cells.apart h h e he f hf hc).2
  have hnd : (s.record h).fields.Nodup :=
    List.Nodup.of_map FieldEntry.id ((fields.order h).imp fun hlt => ne_of_lt hlt)
  have hdrop : ∀ e, e ∈ s.droppedEntries h ops ↔ e ∈ (s.record h).fields ∧ s.entryFate h ops e = .dropped := by
    intro e
    simp [State.droppedEntries]
  have hdnd : ((s.droppedEntries h ops).map FieldEntry.cell).Nodup :=
    (hnd.filter _).map_on fun e he f hf hc => hinj e ((hdrop e).mp he).1 f ((hdrop f).mp hf).1 hc
  have hwnd : ((s.cellWrites h ops).map Prod.fst).Nodup := (hnd.map_on hinj).sublist (cellWrites_sublist s h ops)
  have hfreed := cells_freeCellsOf (s.droppedEntries h ops) s
  have hwused : ∀ w ∈ s.cellWrites h ops, (s.freeCellsOf (s.droppedEntries h ops)).cells[w.1.val] ≠ none := by
    intro w hw
    obtain ⟨e, he, hc, f, hf⟩ := cellWrites_fate s h ops hw
    rw [hfreed, if_neg, ← hc]
    · exact hown e he
    · intro hm
      obtain ⟨g, hg, hgc⟩ := List.mem_map.mp hm
      have := hinj g ((hdrop g).mp hg).1 e he (hgc.trans hc.symm)
      rw [this, hdrop, hf] at hg
      cases hg.2
  obtain ⟨w1, w2, w3, w4⟩ := writeCells_spec (s.cellWrites h ops) (s.freeCellsOf (s.droppedEntries h ops)) hwnd hwused
  have hd := freeCellsOf_frame (s.droppedEntries h ops) s
  have hcount := freeCellCount_freeCellsOf (s.droppedEntries h ops) s hdnd fun e he => hown e ((hdrop e).mp he).1
  generalize hs1 : s.freeCellsOf (s.droppedEntries h ops) = s1 at *
  generalize hs2 : s1.writeCells (s.cellWrites h ops) = s2 at *
  have hrec : s2.records = s.records := by rw [w1, hd]
  have hrecord : ∀ k, s2.record k = s.record k := fun k => by unfold State.record; rw [hrec]
  refine ⟨s2.modifyRecord h fun r => { r with fields := s.committedEntries h ops }, ?_, ?_, ?_, ?_, ?_, ?_, ?_⟩
  · rw [← hs2, ← hs1]; rfl
  · have : s2 = { s with cells := s2.cells } := by rw [w1, hd]
    rw [this]; rfl
  · intro k hk
    rw [State.modifyRecord, record_setRecord_ne _ _ hk, hrecord]
  · rw [State.modifyRecord, record_setRecord_self, hrecord]
  · rw [← hcount, ← w2]; rfl
  · intro e he
    show s2.cells[e.cell.val] = _
    cases hf : s.entryFate h ops e with
    | written f value =>
      exact w3 (e.cell, value) ((mem_cellWrites s h ops).mpr ⟨e, he, by rw [hf, ← written_cell s h ops hf]; rfl⟩)
    | kept f =>
      rw [w4, hfreed, if_neg]
      · intro hm
        obtain ⟨g, hg, hgc⟩ := List.mem_map.mp hm
        rw [hinj g ((hdrop g).mp hg).1 e he hgc, hdrop, hf] at hg
        cases hg.2
      · intro hm
        obtain ⟨w, hw, hwc⟩ := List.mem_map.mp hm
        obtain ⟨g, hg, hgc, f', hf'⟩ := cellWrites_fate s h ops hw
        rw [hinj g hg e he (hgc.trans hwc), hf] at hf'
        cases hf'
    | dropped =>
      rw [w4, hfreed, if_pos]
      · exact List.mem_map_of_mem ((hdrop e).mpr ⟨he, hf⟩)
      · intro hm
        obtain ⟨w, hw, hwc⟩ := List.mem_map.mp hm
        obtain ⟨g, hg, hgc, f', hf'⟩ := cellWrites_fate s h ops hw
        rw [hinj g hg e he (hgc.trans hwc), hf] at hf'
        cases hf'
  · intro c hc
    show s2.cells[c.val] = _
    rw [w4, hfreed, if_neg]
    · intro hm
      obtain ⟨g, hg, hgc⟩ := List.mem_map.mp hm
      exact hc g ((hdrop g).mp hg).1 hgc
    · intro hm
      obtain ⟨w, hw, hwc⟩ := List.mem_map.mp hm
      obtain ⟨g, hg, hgc, _⟩ := cellWrites_fate s h ops hw
      exact hc g hg (hgc.trans hwc)

/-- What a commit that passes checks 1 to 3 does to the fields, and to nothing else (R165). -/
theorem commitFields_spec
    (room : (createdFields (s.record h) ops).length ≤ s.freeCellCount + (s.droppedEntries h ops).length) :
    let t := s.commitFields h ops
    CommittedFields s t h ops ∧ t = { s with records := t.records, cells := t.cells } ∧
      (∀ k, k ≠ h → t.record k = s.record k) ∧ t.record h = { s.record h with fields := (t.record h).fields } := by
  intro t
  obtain ⟨u, hu, uframe, uothers, urecord, ucount, ufate, urest⟩ := commitFields_before s h ops fields cells
  have order := fields.order h
  have removing := fields.removing h
  have hinj : ∀ e ∈ (s.record h).fields, ∀ f ∈ (s.record h).fields, e.id = f.id → e = f := fun e he f hf hid =>
    List.inj_on_of_nodup_map (order.imp fun hlt => ne_of_lt hlt) he hf hid
  have habsent : ∀ f ∈ createdFields (s.record h) ops, ∀ e ∈ (s.record h).fields, e.id ≠ f.1 := by
    intro f hf e he hid
    have := (mem_createdFields.mp hf).1
    simp only [Record.hasField, List.any_eq_false, decide_eq_true_eq] at this
    exact this e he hid
  have ufields : (u.record h).fields = s.committedEntries h ops := by rw [urecord]
  have created : FieldsCreated u t h (createdFields (s.record h) ops) := by
    have := createFields_spec h (createdFields (s.record h) ops) u
      ((createdFields_ascending _ _).imp fun hlt => ne_of_lt hlt)
      (by
        intro f hf e he
        rw [ufields] at he
        obtain ⟨g, hg, hge⟩ := (mem_committedEntries s h ops).mp he
        rw [(entryFate_kept_id s h ops hge).1]
        exact habsent f hf g hg)
      (by rw [ufields]; exact committedEntries_ascending s h ops order)
      (by rw [ucount]; exact room)
    rwa [← hu] at this
  have hkept : ∀ e ∈ (s.record h).fields, ∀ f, (s.entryFate h ops e).entry? = some f → f ∈ (t.record h).fields :=
    fun e he f hf => created.old f (by rw [ufields]; exact (mem_committedEntries s h ops).mpr ⟨e, he, hf⟩)
  have hold : ∀ f ∈ (t.record h).fields, (∃ e ∈ (s.record h).fields, (s.entryFate h ops e).entry? = some f) ∨
      ∃ g ∈ createdFields (s.record h) ops, f = .new g.1 f.cell ∧ u.cells[f.cell.val] = none ∧
        t.cells[f.cell.val] = some g.2 := by
    intro f hf
    refine (created.new f hf).imp_left fun hm => ?_
    rwa [ufields, mem_committedEntries] at hm
  have hown : ∀ e ∈ (s.record h).fields, ∃ v, s.cells[e.cell.val] = some v := fun e he => by
    obtain ⟨v, hv, _⟩ := cells.owned h e he
    exact ⟨v, hv⟩
  have hsame : ∀ e ∈ (s.record h).fields, ∀ f, s.entryFate h ops e = .kept f → t.cells[e.cell.val] = s.cells[e.cell.val] := by
    intro e he f hf
    obtain ⟨v, hv⟩ := hown e he
    have hc := ufate e he
    rw [hf] at hc
    rw [created.used _ (by rw [hc, hv]; simp), hc]
  have hwritten : ∀ e ∈ (s.record h).fields, ∀ f v, s.entryFate h ops e = .written f v → t.cells[e.cell.val] = some v := by
    intro e he f v hf
    have hc := ufate e he
    rw [hf] at hc
    rw [created.used _ (by rw [hc]; simp), hc]
  have hvalue : ∀ e ∈ (s.record h).fields, ∀ v, s.cellValue e.cell = v ↔ s.cellOf e = some v := by
    intro e he v
    obtain ⟨w, hw⟩ := hown e he
    rw [State.cellValue, State.cellOf, hw]
    simp
  have hother : ∀ k, k ≠ h → ∀ e ∈ (s.record k).fields, t.cells[e.cell.val] = s.cells[e.cell.val] := by
    intro k hk e he
    obtain ⟨v, hv, _⟩ := cells.owned k e he
    have hc := urest e.cell fun f hf hcell => hk (cells.apart h k f hf e he hcell).1.symm
    have hv' : s.cells[e.cell.val] = some v := hv
    rw [created.used _ (by rw [hc, hv']; simp), hc]
  have trecord : ∀ k, k ≠ h → t.record k = s.record k := fun k hk => by rw [created.others k hk, uothers k hk]
  refine ⟨?_, ?_, trecord, ?_⟩
  · constructor
    · exact created.ascending
    · intro id
      constructor
      · rintro ⟨f, hf, rfl⟩
        rcases hold f hf with ⟨e, he, hfe⟩ | ⟨g, hg, hfg, _⟩
        · rw [(entryFate_kept_id s h ops hfe).1]
          rw [← Bool.not_eq_false, ← entryFate_dropped s h ops he order (removing e he)]
          intro hd
          rw [hd] at hfe
          cases hfe
        · have hid : f.id = g.1 := by rw [hfg]; rfl
          rw [hid, presentAfter_eq, (mem_createdFields.mp hg).2]
      · intro hp
        by_cases hh : (s.record h).hasField id = true
        · simp only [Record.hasField, List.any_eq_true, decide_eq_true_eq] at hh
          obtain ⟨e, he, rfl⟩ := hh
          have hd := entryFate_dropped s h ops he order (removing e he)
          cases hf : s.entryFate h ops e with
          | kept f => exact ⟨f, hkept e he f (by rw [hf]; rfl), (entryFate_kept_id s h ops (by rw [hf]; rfl)).1⟩
          | written f v => exact ⟨f, hkept e he f (by rw [hf]; rfl), (entryFate_kept_id s h ops (by rw [hf]; rfl)).1⟩
          | dropped => rw [hd.mp hf] at hp; cases hp
        · rw [Bool.not_eq_true] at hh
          have hs : (s.record h).sentField id ≠ true := fun hs => by rw [hasField_of_sentField hs] at hh; cases hh
          rw [presentAfter_eq] at hp
          cases hl : lastNaming id ops with
          | none => rw [hl] at hp; simp [hh] at hp
          | some op =>
            rcases lastNaming_names hl with ⟨v, rfl⟩ | rfl
            · obtain ⟨c, hc, _⟩ := created.created (id, v) (mem_createdFields.mpr ⟨hh, hl⟩)
              exact ⟨_, hc, rfl⟩
            · rw [hl] at hp; exact absurd hp hs
    · intro e he hl
      have hf : s.entryFate h ops e = .kept e := by
        unfold State.entryFate
        rw [lastFieldOp_none.mpr hl]
      exact ⟨hkept e he e (by rw [hf]; rfl), hsame e he e hf⟩
    · intro e he value hl hr hc
      have hf : s.entryFate h ops e = .kept e := by
        unfold State.entryFate
        rw [lastFieldOp_set.mpr hl]
        simp [hr, (hvalue e he value).mpr hc]
      exact ⟨hkept e he e (by rw [hf]; rfl), hsame e he e hf⟩
    · intro e he value hl hc
      have hf : s.entryFate h ops e = .written { e with desired := s.steppedVersion h e, removing := false } value := by
        unfold State.entryFate
        rw [lastFieldOp_set.mpr hl]
        cases hr : e.removing
        · have hne : s.cellValue e.cell ≠ value := fun heq => by
            rw [hvalue e he] at heq
            simp [hr, heq] at hc
          simp only [Bool.false_eq_true, if_false, if_neg hne]
        · simp
      exact ⟨_, isNextVersion_steppedVersion s h e, hkept e he _ (by rw [hf]; rfl), hwritten e he _ value hf⟩
    · intro e he hl hs f hf hid
      have hr : e.removing = false := by
        rw [← Bool.not_eq_true]; intro hr; rw [removing e he hr] at hs; cases hs
      have hfate : s.entryFate h ops e = .dropped := by
        unfold State.entryFate
        rw [lastFieldOp_remove.mpr hl]
        simp [hr, hs]
      rcases hold f hf with ⟨g, hg, hfg⟩ | ⟨g, hg, hfg, _⟩
      · have : g = e := hinj g hg e he ((entryFate_kept_id s h ops hfg).1.symm.trans hid)
        rw [this, hfate] at hfg
        cases hfg
      · have hg1 : f.id = g.1 := by rw [hfg]; rfl
        exact habsent g hg e he (hid.symm.trans hg1)
    · intro e he hl hs
      have hf : s.entryFate h ops e = .kept { e with removing := true } := by
        unfold State.entryFate
        rw [lastFieldOp_remove.mpr hl]
        cases hr : e.removing
        · simp [hs]
        · simp [← hr]
      exact ⟨hkept e he _ (by rw [hf]; rfl), hsame e he _ hf⟩
    · intro id value hno hl
      have hh : (s.record h).hasField id = false := by
        simp only [Record.hasField, List.any_eq_false, decide_eq_true_eq]
        exact hno
      obtain ⟨c, h1, h2, h3, h4⟩ := created.created (id, value) (mem_createdFields.mpr ⟨hh, hl⟩)
      refine ⟨c, h1, h3, ?_, h4⟩
      by_cases hc : ∃ e ∈ (s.record h).fields, e.cell = c
      · obtain ⟨e, he, rfl⟩ := hc
        have hu := ufate e he
        obtain ⟨v, hv⟩ := hown e he
        cases hf : s.entryFate h ops e with
        | kept f => rw [hf, h2, hv] at hu; cases hu
        | written f v => rw [hf, h2] at hu; cases hu
        | dropped =>
          refine .inr ⟨e, he, rfl, ?_⟩
          unfold State.entryFate at hf
          split at hf
          · cases hf
          · split at hf
            · cases hf
            · split at hf <;> cases hf
          · rename_i hlast
            split at hf
            · cases hf
            · split at hf
              · cases hf
              · rename_i hs
                exact ⟨Bool.not_eq_true _ ▸ hs, lastFieldOp_remove.mp hlast⟩
      · left
        rw [← urest c fun e he hec => hc ⟨e, he, hec⟩]
        exact h2
    · intro c
      constructor
      · intro hc
        by_cases huc : u.cells[c.val] = none
        · obtain ⟨e, he, hec⟩ := created.free c huc hc
          exact ⟨h, e, he, hec⟩
        · by_cases hin : ∃ e ∈ (s.record h).fields, e.cell = c
          · obtain ⟨e, he, rfl⟩ := hin
            have hu := ufate e he
            cases hf : s.entryFate h ops e with
            | kept f => exact ⟨h, f, hkept e he f (by rw [hf]; rfl), (entryFate_kept_id s h ops (by rw [hf]; rfl)).2⟩
            | written f v => exact ⟨h, f, hkept e he f (by rw [hf]; rfl), written_cell s h ops hf⟩
            | dropped => rw [hf] at hu; exact absurd hu huc
          · have hs : s.cells[c.val] ≠ none := by
              rw [← urest c fun e he hec => hin ⟨e, he, hec⟩]
              exact huc
            obtain ⟨v, hv⟩ := Option.ne_none_iff_exists'.mp hs
            obtain ⟨k, e, he, hec⟩ := cells.used c v hv
            have hk : k ≠ h := fun hk => hin ⟨e, hk ▸ he, hec⟩
            exact ⟨k, e, by rw [trecord k hk]; exact he, hec⟩
      · rintro ⟨k, e, he, rfl⟩
        by_cases hk : k = h
        · subst hk
          rcases hold e he with ⟨g, hg, hge⟩ | ⟨g, _, _, _, hgc⟩
          · rw [(entryFate_kept_id s k ops hge).2]
            obtain ⟨v, hv⟩ := hown g hg
            cases hf : s.entryFate k ops g with
            | kept f => rw [hsame g hg f hf, hv]; simp
            | written f v => rw [hwritten g hg f v hf]; simp
            | dropped => rw [hf] at hge; cases hge
          · rw [hgc]; simp
        · rw [trecord k hk] at he
          obtain ⟨v, hv, _⟩ := cells.owned k e he
          rw [hother k hk e he]
          exact fun hn => by rw [State.cellOf, hn] at hv; cases hv
    · intro k hk e he
      exact hother k hk e he
  · rw [created.frame, uframe]
  · have := created.record
    rw [urecord] at this
    exact this

end CommitFields

end Sys2Proof.Machine
end

