-- ==== Sys2Proof/Laws/PerInstr.lean ====
section
/-! SUPPORT. Statements about every row, made per constructor. -/

namespace Sys2Proof.Laws

/-! ## Encoding: the bytes of a transaction decode to the row they are the end of (R172, R173, 11.3). -/

/-- If a well-formed row is the end of a transaction, the bytes of that transaction decode to it. -/
def Encoding.Statement (i : Instr) : Prop :=
  i.wf = true → ∀ bytes, encodeTransaction i = some bytes → decodeTransaction bytes = i

/-- A code that is not in the command table decodes to an unknown command. -/
theorem decodeCommand_unknown {code : Byte} (h : commandCodes.contains code = false) (params : List Byte) :
    decodeCommand code params = .unknownCommand code params := by
  unfold decodeCommand
  split <;> first
    | rfl
    | (rename_i e
       rw [show code = BitVec.ofNat 8 code.toNat by simp] at h
       simp only [e] at h
       exact absurd h (by decide))

theorem Encoding.chipSelectFall : Encoding.Statement .chipSelectFall := by
  intro _ bytes e; cases e

theorem Encoding.emptyTransaction : Encoding.Statement .emptyTransaction := by
  intro _ bytes e; cases e; rfl

theorem Encoding.unknownCommand (code : Byte) (params : List Byte) : Encoding.Statement (.unknownCommand code params) := by
  intro h bytes e
  cases e
  exact decodeCommand_unknown (by simpa [Instr.wf] using h) params

theorem Encoding.noOperation (params : List Byte) : Encoding.Statement (.noOperation params) := by
  intro _ bytes e; cases e; rfl

theorem Encoding.readResponse (params : List Byte) : Encoding.Statement (.readResponse params) := by
  intro _ bytes e; cases e; rfl

theorem Encoding.readStatus (params : List Byte) : Encoding.Statement (.readStatus params) := by
  intro _ bytes e; cases e; rfl

theorem Encoding.readIdent (params : List Byte) : Encoding.Statement (.readIdent params) := by
  intro _ bytes e; cases e; rfl

theorem Encoding.resetCommand (params : List Byte) : Encoding.Statement (.resetCommand params) := by
  intro _ bytes e; cases e; rfl

theorem Encoding.readEvents (params : List Byte) : Encoding.Statement (.readEvents params) := by
  intro _ bytes e; cases e; rfl

theorem Encoding.clearEvents (params : List Byte) : Encoding.Statement (.clearEvents params) := by
  intro _ bytes e; cases e; rfl

theorem Encoding.setEventMask (params : List Byte) : Encoding.Statement (.setEventMask params) := by
  intro _ bytes e; cases e; rfl

theorem Encoding.setLinkTiming (params : List Byte) : Encoding.Statement (.setLinkTiming params) := by
  intro _ bytes e; cases e; rfl

theorem Encoding.startLink (params : List Byte) : Encoding.Statement (.startLink params) := by
  intro _ bytes e; cases e; rfl

theorem Encoding.stopLink (params : List Byte) : Encoding.Statement (.stopLink params) := by
  intro _ bytes e; cases e; rfl

theorem Encoding.readTime (params : List Byte) : Encoding.Statement (.readTime params) := by
  intro _ bytes e; cases e; rfl

theorem Encoding.setQualityLimits (params : List Byte) : Encoding.Statement (.setQualityLimits params) := by
  intro _ bytes e; cases e; rfl

theorem Encoding.setLevel (params : List Byte) : Encoding.Statement (.setLevel params) := by
  intro _ bytes e; cases e; rfl

theorem Encoding.startCensus (params : List Byte) : Encoding.Statement (.startCensus params) := by
  intro _ bytes e; cases e; rfl

theorem Encoding.readCensus (params : List Byte) : Encoding.Statement (.readCensus params) := by
  intro _ bytes e; cases e; rfl

theorem Encoding.readJoin (params : List Byte) : Encoding.Statement (.readJoin params) := by
  intro _ bytes e; cases e; rfl

theorem Encoding.dropJoin (params : List Byte) : Encoding.Statement (.dropJoin params) := by
  intro _ bytes e; cases e; rfl

theorem Encoding.admitLabel (params : List Byte) : Encoding.Statement (.admitLabel params) := by
  intro _ bytes e; cases e; rfl

theorem Encoding.retire (params : List Byte) : Encoding.Statement (.retire params) := by
  intro _ bytes e; cases e; rfl

theorem Encoding.forget (params : List Byte) : Encoding.Statement (.forget params) := by
  intro _ bytes e; cases e; rfl

theorem Encoding.findSerial (params : List Byte) : Encoding.Statement (.findSerial params) := by
  intro _ bytes e; cases e; rfl

theorem Encoding.readRecord (params : List Byte) : Encoding.Statement (.readRecord params) := by
  intro _ bytes e; cases e; rfl

theorem Encoding.readField (params : List Byte) : Encoding.Statement (.readField params) := by
  intro _ bytes e; cases e; rfl

theorem Encoding.readChanged (params : List Byte) : Encoding.Statement (.readChanged params) := by
  intro _ bytes e; cases e; rfl

theorem Encoding.listState (params : List Byte) : Encoding.Statement (.listState params) := by
  intro _ bytes e; cases e; rfl

theorem Encoding.takePresses (params : List Byte) : Encoding.Statement (.takePresses params) := by
  intro _ bytes e; cases e; rfl

theorem Encoding.beginEdit (params : List Byte) : Encoding.Statement (.beginEdit params) := by
  intro _ bytes e; cases e; rfl

theorem Encoding.stageField (params : List Byte) : Encoding.Statement (.stageField params) := by
  intro _ bytes e; cases e; rfl

theorem Encoding.stageRemove (params : List Byte) : Encoding.Statement (.stageRemove params) := by
  intro _ bytes e; cases e; rfl

theorem Encoding.stageMode (params : List Byte) : Encoding.Statement (.stageMode params) := by
  intro _ bytes e; cases e; rfl

theorem Encoding.stagePeriod (params : List Byte) : Encoding.Statement (.stagePeriod params) := by
  intro _ bytes e; cases e; rfl

theorem Encoding.stageSeat (params : List Byte) : Encoding.Statement (.stageSeat params) := by
  intro _ bytes e; cases e; rfl

theorem Encoding.commitEdit (params : List Byte) : Encoding.Statement (.commitEdit params) := by
  intro _ bytes e; cases e; rfl

theorem Encoding.abortEdit (params : List Byte) : Encoding.Statement (.abortEdit params) := by
  intro _ bytes e; cases e; rfl

theorem Encoding.powerOn : Encoding.Statement .powerOn := by
  intro _ bytes e; cases e

theorem Encoding.resetLineAssert : Encoding.Statement .resetLineAssert := by
  intro _ bytes e; cases e

theorem Encoding.resetLineRelease : Encoding.Statement .resetLineRelease := by
  intro _ bytes e; cases e

theorem Encoding.settleExpiry (ready : Bool) : Encoding.Statement (.settleExpiry ready) := by
  intro _ bytes e; cases e

theorem Encoding.superframeStart (ready : Bool) : Encoding.Statement (.superframeStart ready) := by
  intro _ bytes e; cases e

theorem Encoding.coolingExpiry (seat : SeatNo) : Encoding.Statement (.coolingExpiry seat) := by
  intro _ bytes e; cases e

theorem Encoding.offerTurnTimeout : Encoding.Statement .offerTurnTimeout := by
  intro _ bytes e; cases e

theorem Encoding.joinWindowStart : Encoding.Statement .joinWindowStart := by
  intro _ bytes e; cases e

theorem Encoding.joinWindowEnd : Encoding.Statement .joinWindowEnd := by
  intro _ bytes e; cases e

theorem Encoding.turnStart (seat : SeatNo) (ready : Bool) : Encoding.Statement (.turnStart seat ready) := by
  intro _ bytes e; cases e

theorem Encoding.downlinkSent : Encoding.Statement .downlinkSent := by
  intro _ bytes e; cases e

theorem Encoding.plannedOpen : Encoding.Statement .plannedOpen := by
  intro _ bytes e; cases e

theorem Encoding.plannedClose : Encoding.Statement .plannedClose := by
  intro _ bytes e; cases e

theorem Encoding.uplinkFrame (frame : Uplink) : Encoding.Statement (.uplinkFrame frame) := by
  intro _ bytes e; cases e

theorem Encoding.censusCompletion : Encoding.Statement .censusCompletion := by
  intro _ bytes e; cases e

end Sys2Proof.Laws
end

