-- ==== Sys2Proof/Laws/Turns.lean ====
section
/-! SUPPORT. What the close of a turn can do: it acts on one record, and then the census and the end of a drain act on
their own parts. With it packing, the offer turn and the quality window. -/

namespace Sys2Proof.Machine

variable (s : State)

/-! ## Marks and flags -/

@[simp] theorem record_markChangedIf (b : Bool) (h k : Handle) : (s.markChangedIf b h).record k = s.record k := by
  cases b <;> rfl

theorem isChanged_markChangedIf (b : Bool) (h k : Handle) :
    (s.markChangedIf b h).isChanged k = (b && decide (k = h) || s.isChanged k) := by
  cases b <;> simp [State.markChangedIf, isChanged_markChanged]

theorem flag_markChanged (h : Handle) (f : EventFlag) :
    (s.markChanged h).flag f = (s.flag f || decide (f = .changed)) := by
  unfold State.markChanged
  rw [flag_setFlag]
  rfl

theorem flag_markChangedIf (b : Bool) (h : Handle) (f : EventFlag) :
    (s.markChangedIf b h).flag f = (s.flag f || b && decide (f = .changed)) := by
  cases b <;> simp [State.markChangedIf, flag_markChanged]

@[simp] theorem flag_setRecord (h : Handle) (r : Record) (f : EventFlag) : (s.setRecord h r).flag f = s.flag f := rfl

/-! ## Acting on one record -/

/-- From one state to the other only this record, its mark in the changed set, cells, seats, the offer queue, the event
flags and attention can differ. -/
structure ActsOn (h : Handle) (s t : State) : Prop where
  others : ∀ k, k ≠ h → t.record k = s.record k
  marks : ∀ k, k ≠ h → t.isChanged k = s.isChanged k
  port : t.port = { s.port with flags := t.port.flags, attention := t.port.attention }
  rest : t =
    { s with
      records := t.records, changed := t.changed, cells := t.cells, seats := t.seats, offerQueue := t.offerQueue,
      port := t.port }

theorem ActsOn.rfl {h : Handle} : ActsOn h s s := ⟨fun _ _ => .refl _, fun _ _ => .refl _, .refl _, .refl _⟩

variable {s}

theorem ActsOn.trans {h : Handle} {t u : State} (a : ActsOn h s t) (b : ActsOn h t u) : ActsOn h s u where
  others k hk := (b.others k hk).trans (a.others k hk)
  marks k hk := (b.marks k hk).trans (a.marks k hk)
  port := by rw [b.port, a.port]
  rest := by rw [b.rest, a.rest]

variable {h : Handle}

theorem ActsOn.time {t : State} (a : ActsOn h s t) : t.time = s.time := by rw [a.rest]
theorem ActsOn.context {t : State} (a : ActsOn h s t) : t.context = s.context := by rw [a.rest]
theorem ActsOn.lateRef {t : State} (a : ActsOn h s t) : t.lateRef = s.lateRef := by rw [a.rest]
theorem ActsOn.frameOut {t : State} (a : ActsOn h s t) : t.frameOut = s.frameOut := by rw [a.rest]
theorem ActsOn.limits {t : State} (a : ActsOn h s t) : t.limits = s.limits := by rw [a.rest]
theorem ActsOn.census {t : State} (a : ActsOn h s t) : t.census = s.census := by rw [a.rest]
theorem ActsOn.joinQueue {t : State} (a : ActsOn h s t) : t.joinQueue = s.joinQueue := by rw [a.rest]
theorem ActsOn.edit {t : State} (a : ActsOn h s t) : t.edit = s.edit := by rw [a.rest]
theorem ActsOn.inReset {t : State} (a : ActsOn h s t) : t.inReset = s.inReset := by rw [a.rest]

variable (s)

theorem actsOn_setRecord (r : Record) : ActsOn h s (s.setRecord h r) where
  others _ hk := record_setRecord_ne s r hk
  marks _ _ := .refl _
  port := .refl _
  rest := .refl _

theorem actsOn_modifyRecord (f : Record → Record) : ActsOn h s (s.modifyRecord h f) := actsOn_setRecord s _

theorem actsOn_setFlag (f : EventFlag) : ActsOn h s (s.setFlag f) where
  others _ _ := .refl _
  marks _ _ := .refl _
  port := .refl _
  rest := .refl _

theorem actsOn_markChanged : ActsOn h s (s.markChanged h) where
  others _ _ := .refl _
  marks k hk := by rw [isChanged_markChanged]; simp [hk]
  port := .refl _
  rest := .refl _

theorem actsOn_markChangedIf (b : Bool) : ActsOn h s (s.markChangedIf b h) := by
  cases b
  · exact ActsOn.rfl s
  · exact actsOn_markChanged s

theorem actsOn_writeCell (c : CellNo) (v : List Byte) : ActsOn h s (s.writeCell c v) :=
  ⟨fun _ _ => .refl _, fun _ _ => .refl _, .refl _, .refl _⟩

theorem actsOn_freeCell (c : CellNo) : ActsOn h s (s.freeCell c) :=
  ⟨fun _ _ => .refl _, fun _ _ => .refl _, .refl _, .refl _⟩

theorem actsOn_freeCellsOf (entries : List FieldEntry) : ∀ s : State, ActsOn h s (s.freeCellsOf entries) := by
  induction entries with
  | nil => exact fun s => ActsOn.rfl s
  | cons e es ih => exact fun s => (actsOn_freeCell s e.cell).trans (ih _)

theorem actsOn_setSeat (n : SeatNo) (v : Seat) : ActsOn h s (s.setSeat n v) :=
  ⟨fun _ _ => .refl _, fun _ _ => .refl _, .refl _, .refl _⟩

theorem actsOn_setSeat? (n : Option SeatNo) (v : Seat) : ActsOn h s (s.setSeat? n v) := by
  cases n
  · exact ActsOn.rfl s
  · exact actsOn_setSeat s _ v

theorem actsOn_leaveOfferQueue (k : Handle) : ActsOn h s (s.leaveOfferQueue k) :=
  ⟨fun _ _ => .refl _, fun _ _ => .refl _, .refl _, .refl _⟩

theorem actsOn_vacate (outcome : ReleaseOutcome) (left : Seat) : ActsOn h s (s.vacate h outcome left) := by
  unfold State.vacate
  exact ((((actsOn_freeCellsOf _ s).trans (actsOn_setSeat? _ _ _)).trans (actsOn_setSeat? _ _ _)).trans
    (actsOn_leaveOfferQueue _ _)).trans (actsOn_setRecord _ _)

theorem actsOn_completeRelease (outcome : ReleaseOutcome) (left : Seat) :
    ActsOn h s (s.completeRelease h outcome left) :=
  ((actsOn_vacate s outcome left).trans (actsOn_setFlag _ _)).trans (actsOn_markChanged _)

theorem actsOn_report (heard : Heard) (ack : Ack) : ActsOn h s (s.report h heard ack) :=
  (actsOn_setRecord s _).trans (actsOn_markChangedIf _ _)

theorem actsOn_bind : ActsOn h s (s.bind h) :=
  ((actsOn_modifyRecord s _).trans (actsOn_leaveOfferQueue _ _)).trans (actsOn_markChanged _)

theorem actsOn_confirmMove : ActsOn h s (s.confirmMove h) := by
  unfold State.confirmMove
  split
  · exact ActsOn.rfl s
  · exact ((actsOn_setSeat? s _ _).trans (actsOn_modifyRecord _ _)).trans (actsOn_markChanged _)

theorem actsOn_acknowledgeItem (item : Item) (refused : Bool) : ActsOn h s (s.acknowledgeItem h item refused) := by
  cases item with
  | set id version =>
    cases refused
    · exact actsOn_modifyRecord s (·.modifyEntry id (·.acknowledge version false))
    · exact (actsOn_modifyRecord s _).trans (actsOn_setFlag _ _)
  | remove id =>
    simp only [State.acknowledgeItem]
    split
    · exact ActsOn.rfl s
    · split
      · exact (actsOn_freeCell s _).trans (actsOn_modifyRecord _ _)
      · exact actsOn_modifyRecord s _

theorem actsOn_acknowledgeFrom (refusals : BitVec 6) (items : List Item) :
    ∀ (i : Nat) (s : State), ActsOn h s (s.acknowledgeFrom h refusals i items) := by
  induction items with
  | nil => exact fun _ s => ActsOn.rfl s
  | cons item items ih => exact fun i s => (actsOn_acknowledgeItem s item _).trans (ih (i + 1) _)

theorem actsOn_acknowledgeUpdate (items : List Item) (refusals : BitVec 6) :
    ActsOn h s (s.acknowledgeUpdate h items refusals) :=
  (actsOn_acknowledgeFrom refusals items 0 s).trans (actsOn_markChangedIf _ _)

theorem actsOn_confirmWork (work : Work) (ack : Ack) : ActsOn h s (s.confirmWork h work ack) := by
  cases work with
  | poll => exact ActsOn.rfl s
  | update items => exact actsOn_acknowledgeUpdate s items _
  | mode m => exact (actsOn_modifyRecord s _).trans (actsOn_markChanged _)
  | retime e => exact (actsOn_modifyRecord s _).trans (actsOn_markChanged _)
  | move n =>
    simp only [State.confirmWork]
    split
    · exact actsOn_confirmMove s
    · exact ActsOn.rfl s
  | release => exact ActsOn.rfl s

theorem actsOn_goodEffects (turn : LabelTurn) (ack : Ack) : ActsOn turn.handle s (s.goodEffects turn ack) := by
  unfold State.goodEffects
  split <;> first
    | exact actsOn_bind s
    | exact actsOn_confirmWork s _ _
    | exact actsOn_confirmMove s
    | exact ActsOn.rfl s

theorem actsOn_replyEffects (turn : LabelTurn) (outcome : TurnOutcome) :
    ActsOn turn.handle s (s.replyEffects turn outcome) := by
  have unanswered : ActsOn turn.handle s (s.releaseUnanswered turn) := by
    unfold State.releaseUnanswered
    split
    · exact actsOn_completeRelease s _ _
    · exact ActsOn.rfl s
  cases outcome with
  | good corrected ack =>
    simp only [State.replyEffects]
    split
    · exact actsOn_completeRelease s _ _
    · exact actsOn_goodEffects s turn ack
  | damaged => exact unanswered
  | noReply => exact unanswered

theorem actsOn_judgeTurn (turn : LabelTurn) (outcome : TurnOutcome) (before : Record) :
    ActsOn turn.handle s (s.judgeTurn turn outcome before) := by
  unfold State.judgeTurn
  have base := (actsOn_setRecord (h := turn.handle) s
    ((s.record turn.handle).judge s.limits turn outcome before).record).trans
      (actsOn_markChangedIf _ ((s.record turn.handle).judge s.limits turn outcome before).changed)
  simp only
  split
  · exact base.trans (actsOn_setFlag _ _)
  · exact base

/-- The claim of a close acts on the record of its turn alone (R66). -/
theorem actsOn_applyClose (turn : LabelTurn) (outcome : TurnOutcome) :
    ActsOn turn.handle s (s.applyClose turn outcome) := by
  unfold State.applyClose
  split
  · have report : ActsOn turn.handle s (s.closeReport turn outcome) := by
      cases outcome with
      | good corrected ack => exact actsOn_report s _ _
      | damaged => exact ActsOn.rfl s
      | noReply => exact ActsOn.rfl s
    have effects := report.trans (actsOn_replyEffects (s.closeReport turn outcome) turn outcome)
    simp only
    split
    · exact effects
    · exact effects.trans (actsOn_judgeTurn _ _ _ _)
  · exact ActsOn.rfl s

/-! ## The cadence test (R136) -/

theorem Record.modeCadencePending_iff (r : Record) : r.modeCadencePending = true ↔ r.dormancyPending := by
  simp [Record.modeCadencePending]

theorem exponentOf_val (state : RecordState) (mode : Mode) (period : Exponent) :
    (exponentOf state mode period).val = if state = .lost ∨ mode = .dormant then 6 else period.val := by
  unfold exponentOf; split <;> rfl

/-- The test the close makes is the cadence test as the statements write it. -/
theorem Record.cadenceTest_iff (r : Record) (h : Handle) (superframe : BitVec 16) :
    r.cadenceTest h superframe = true ↔ r.passesCadence h superframe := by
  simp only [Record.cadenceTest, Record.cadencePending, Record.passesCadence, awake, Record.effectiveExponent,
    Record.targetExponent, exponentOf_val, ← Record.modeCadencePending_iff, Bool.or_eq_true, Bool.and_eq_true,
    Bool.not_eq_true', Bool.or_eq_false_iff, beq_iff_eq, Option.isSome_eq_false_iff, Option.isNone_iff_eq_none,
    Bool.not_eq_true]

/-! ## The census and the end of a drain -/

/-- The census part of a close changes the census, the event flags and attention. -/
theorem countCensus_frame (outcome : TurnOutcome) :
    s.countCensus outcome =
      { s with
        census := (s.countCensus outcome).census
        port :=
          { s.port with
            flags := (s.countCensus outcome).port.flags, attention := (s.countCensus outcome).port.attention } } := by
  unfold State.countCensus State.completeCensus
  split
  · rfl
  · split <;> rfl

/-- It sets no event flag but CENSUS_DONE. -/
theorem flag_countCensus (outcome : TurnOutcome) {f : EventFlag} (hf : f ≠ .censusDone) :
    (s.countCensus outcome).flag f = s.flag f := by
  unfold State.countCensus State.completeCensus
  split
  · rfl
  · split
    · rw [flag_setFlag]
      simp [hf]
      rfl
    · rfl

/-- Outside STOPPING there is no drain to end. -/
theorem endDrain_of_ne (hs : s.time.link ≠ .stopping) : s.endDrain = s := by simp [State.endDrain, hs]

/-- A close in RUNNING answers the claim and the census, and nothing else. -/
theorem closeTurn_running (turn : LabelTurn) (outcome : TurnOutcome) (hs : s.time.link = .running) :
    s.closeTurn turn outcome = ({ s with context := none }.applyClose turn outcome).countCensus outcome := by
  have h1 := (actsOn_applyClose { s with context := none } turn outcome).time
  have h2 := congrArg State.time (countCensus_frame ({ s with context := none }.applyClose turn outcome) outcome)
  unfold State.closeTurn
  apply endDrain_of_ne
  rw [h2]
  show ({ s with context := none }.applyClose turn outcome).time.link ≠ .stopping
  rw [h1]
  simp [hs]

/-! ## Packing an UPDATE (R80) -/

/-- The field id of an item. -/
def Item.field : Item → FieldId
  | .set id _ => id
  | .remove id => id

theorem item?_field {e : FieldEntry} {item : Item} (hi : e.item? = some item) : item.field = e.id := by
  unfold FieldEntry.item? at hi
  split at hi <;> cases hi <;> rfl

/-- What packing takes: in ascending field id, the item of an entry exactly if its cost fits what the items of lower
field id leave of the capacity (R80). -/
theorem packItems_spec (valueLength : FieldEntry → Nat) (cost : Item → Nat) (entries : List FieldEntry) :
    ∀ capacity room, (∀ e ∈ entries, ∀ item, e.item? = some item → item.cost (valueLength e) = cost item) →
      (entries.map FieldEntry.id).Pairwise (· < ·) → entries.length ≤ room →
      let items := packItems valueLength capacity room entries
      (items.map cost).sum ≤ capacity ∧ items.length ≤ entries.length ∧
        (∀ item ∈ items, ∃ e ∈ entries, e.item? = some item) ∧ (items.map Item.field).Pairwise (· < ·) ∧
        (∀ e ∈ entries, ∀ item, e.item? = some item →
          (item ∈ items ↔ cost item + ((items.filter fun i => i.field < e.id).map cost).sum ≤ capacity)) ∧
        (((entries.filterMap FieldEntry.item?).map cost).sum ≤ capacity →
          items = entries.filterMap FieldEntry.item?) := by
  induction entries with
  | nil => intro capacity room _ _ _; simp [packItems]
  | cons e es ih =>
    intro capacity room hcost order hroom
    rw [List.map_cons, List.pairwise_cons] at order
    have hcost' : ∀ f ∈ es, ∀ item, f.item? = some item → item.cost (valueLength f) = cost item :=
      fun f hf => hcost f (List.mem_cons_of_mem _ hf)
    have above : ∀ capacity room, ∀ item ∈ packItems valueLength capacity room es,
        (∃ f ∈ es, f.item? = some item) → e.id < item.field := by
      rintro _ _ item _ ⟨f, hf, hi⟩
      rw [item?_field hi]
      exact order.1 _ (List.mem_map_of_mem hf)
    rw [List.length_cons] at hroom
    cases he : e.item? with
    | none =>
      obtain ⟨h1, h2, h3, h4, h5, h6⟩ := ih capacity room hcost' order.2 (by omega)
      simp only [packItems, he, List.filterMap_cons, List.length_cons]
      refine ⟨h1, by omega, fun item hi => ?_, h4, fun f hf item hi => ?_, h6⟩
      · obtain ⟨f, hf, hfi⟩ := h3 item hi
        exact ⟨f, List.mem_cons_of_mem _ hf, hfi⟩
      · rcases List.mem_cons.mp hf with rfl | hf
        · rw [he] at hi; cases hi
        · exact h5 f hf item hi
    | some item0 =>
      have h0 : item0.cost (valueLength e) = cost item0 := hcost e List.mem_cons_self item0 he
      have hid0 : item0.field = e.id := item?_field he
      by_cases hfit : cost item0 ≤ capacity
      · obtain ⟨h1, h2, h3, h4, h5, h6⟩ := ih (capacity - cost item0) (room - 1) hcost' order.2 (by omega)
        have hpack : packItems valueLength capacity room (e :: es) =
            item0 :: packItems valueLength (capacity - cost item0) (room - 1) es := by
          simp only [packItems, he, h0]
          rw [if_pos ⟨hfit, by omega⟩]
        have habove : ∀ item ∈ packItems valueLength (capacity - cost item0) (room - 1) es, e.id < item.field :=
          fun item hi => above _ _ item hi (h3 item hi)
        rw [hpack]
        generalize packItems valueLength (capacity - cost item0) (room - 1) es = items at *
        refine ⟨?_, ?_, ?_, ?_, ?_, ?_⟩
        · simp only [List.map_cons, List.sum_cons]; omega
        · simp only [List.length_cons]; omega
        · intro item hi
          rcases List.mem_cons.mp hi with rfl | hi
          · exact ⟨e, List.mem_cons_self, he⟩
          · obtain ⟨f, hf, hfi⟩ := h3 item hi
            exact ⟨f, List.mem_cons_of_mem _ hf, hfi⟩
        · rw [List.map_cons, List.pairwise_cons]
          refine ⟨fun id hid => ?_, h4⟩
          obtain ⟨item, hi, rfl⟩ := List.mem_map.mp hid
          rw [hid0]; exact habove item hi
        · intro f hf item hi
          rcases List.mem_cons.mp hf with rfl | hf
          · rw [he] at hi
            cases hi
            have hnone : ((item0 :: items).filter fun i => i.field < f.id) = [] := by
              rw [List.filter_eq_nil_iff]
              intro i hi
              rcases List.mem_cons.mp hi with rfl | hi
              · simp [hid0]
              · simp [le_of_lt (habove i hi)]
            rw [hnone]
            simpa using hfit
          · have hlt : e.id < f.id := order.1 _ (List.mem_map_of_mem hf)
            have hne : item ≠ item0 := by
              rintro rfl
              rw [item?_field hi] at hid0
              exact absurd hid0 (ne_of_gt hlt)
            rw [List.mem_cons, or_iff_right hne, h5 f hf item hi, List.filter_cons, if_pos (by simpa [hid0] using hlt),
              List.map_cons, List.sum_cons]
            omega
        · rw [List.filterMap_cons, he]
          simp only [List.map_cons, List.sum_cons]
          intro hsum
          rw [h6 (by omega)]
      · obtain ⟨h1, h2, h3, h4, h5, h6⟩ := ih capacity room hcost' order.2 (by omega)
        have hpack : packItems valueLength capacity room (e :: es) = packItems valueLength capacity room es := by
          simp only [packItems, he, h0]
          rw [if_neg fun hc => hfit hc.1]
        have habove : ∀ item ∈ packItems valueLength capacity room es, e.id < item.field :=
          fun item hi => above _ _ item hi (h3 item hi)
        rw [hpack]
        generalize packItems valueLength capacity room es = items at *
        refine ⟨h1, by simp only [List.length_cons]; omega, fun item hi => ?_, h4, fun f hf item hi => ?_, ?_⟩
        · obtain ⟨f, hf, hfi⟩ := h3 item hi
          exact ⟨f, List.mem_cons_of_mem _ hf, hfi⟩
        · rcases List.mem_cons.mp hf with rfl | hf
          · rw [he] at hi
            cases hi
            refine ⟨fun hm => ?_, fun hc => absurd (le_trans (Nat.le_add_right _ _) hc) hfit⟩
            have := habove item0 hm
            rw [hid0] at this
            exact absurd this (lt_irrefl _)
          · exact h5 f hf item hi
        · rw [List.filterMap_cons, he]
          simp only [List.map_cons, List.sum_cons]
          intro hsum
          omega

/-! ## The offer turn (R92, R93) -/

/-- A record that falls from the offer queue: what changes of it, of the changed set, the queue and the flags. -/
theorem actsOn_fallFromOffer (h : Handle) : ActsOn h s (s.fallFromOffer h) :=
  ((((actsOn_leaveOfferQueue s h).trans (actsOn_modifyRecord _ _)).trans (actsOn_setFlag _ _)).trans
    (actsOn_markChanged _))

theorem fallFromOffer_record (h : Handle) :
    (s.fallFromOffer h).record h = { s.record h with state := .lost, offset := .wide } := by
  unfold State.fallFromOffer
  rw [record_markChanged, record_setFlag, State.modifyRecord, record_setRecord_self, record_leaveOfferQueue]

theorem fallFromOffer_offerQueue (h : Handle) :
    (s.fallFromOffer h).offerQueue = s.offerQueue.filter (· ≠ h) := rfl

theorem fallFromOffer_isChanged (h : Handle) : (s.fallFromOffer h).isChanged h = true :=
  isChanged_markChanged_self _ h

theorem flag_fallFromOffer (h : Handle) (f : EventFlag) :
    (s.fallFromOffer h).flag f = (s.flag f || decide (f = .lost) || decide (f = .changed)) := by
  show (State.markChanged _ h).flag f = _
  rw [flag_markChanged, flag_setFlag]
  rfl

/-- The exhausted records at the head of the offer queue fall to LOST, and the queue goes on behind them (R92, R93). -/
theorem dropExhausted_spec (gone rest : List Handle) : ∀ s : State, s.offerQueue = gone ++ rest → (gone ++ rest).Nodup →
    (∀ h ∈ gone, 4 ≤ (s.record h).attempts) → (∀ h behind, rest = h :: behind → (s.record h).attempts < 4) →
    let t := s.dropExhausted (gone ++ rest)
    t.offerQueue = rest ∧
      (∀ h ∈ gone, t.record h = { s.record h with state := .lost, offset := .wide } ∧ t.isChanged h = true) ∧
      (∀ k, k ∉ gone → t.record k = s.record k ∧ t.isChanged k = s.isChanged k) ∧
      (∀ f, t.flag f = (s.flag f || decide (gone ≠ []) && (decide (f = .lost) || decide (f = .changed)))) ∧
      t.port = { s.port with flags := t.port.flags, attention := t.port.attention } ∧
      t = { s with records := t.records, changed := t.changed, offerQueue := t.offerQueue, port := t.port } := by
  induction gone with
  | nil =>
    intro s hq _ _ hrest
    have hs : s.dropExhausted ([] ++ rest) = s := by
      cases rest with
      | nil => rfl
      | cons h behind =>
        have := hrest h behind rfl
        show State.dropExhausted s (h :: behind) = s
        unfold State.dropExhausted
        exact if_pos this
    rw [hs]
    exact ⟨hq, by simp, fun k _ => ⟨rfl, rfl⟩, by simp, rfl, rfl⟩
  | cons g gone ih =>
    intro s hq hnd hgone hrest
    rw [List.cons_append, List.nodup_cons] at hnd
    have act := actsOn_fallFromOffer s g
    have hne : ∀ h ∈ gone ++ rest, h ≠ g := fun h hh heq => hnd.1 (heq ▸ hh)
    have hstep : s.dropExhausted (g :: gone ++ rest) = (s.fallFromOffer g).dropExhausted (gone ++ rest) := by
      show State.dropExhausted s (g :: (gone ++ rest)) = _
      conv_lhs => unfold State.dropExhausted
      exact if_neg (not_lt.mpr (hgone g List.mem_cons_self))
    have hqueue : (s.fallFromOffer g).offerQueue = gone ++ rest := by
      rw [fallFromOffer_offerQueue, hq, List.cons_append, List.filter_cons, if_neg (by simp),
        List.filter_eq_self]
      exact fun h hh => by simpa using hne h hh
    obtain ⟨r1, r2, r3, r4, r5, r6⟩ := ih (s.fallFromOffer g) hqueue hnd.2
      (fun h hh => by
        rw [act.others h (hne h (List.mem_append_left _ hh))]
        exact hgone h (List.mem_cons_of_mem _ hh))
      (fun h behind hr => by
        rw [act.others h (hne h (List.mem_append_right _ (hr ▸ List.mem_cons_self)))]
        exact hrest h behind hr)
    rw [hstep]
    generalize (s.fallFromOffer g).dropExhausted (gone ++ rest) = t at *
    have hgg : g ∉ gone := fun hg => hnd.1 (List.mem_append_left _ hg)
    refine ⟨r1, ?_, ?_, ?_, ?_, ?_⟩
    · intro h hh
      rcases List.mem_cons.mp hh with rfl | hh
      · rw [(r3 h hgg).1, (r3 h hgg).2]
        exact ⟨fallFromOffer_record s h, fallFromOffer_isChanged s h⟩
      · rw [(r2 h hh).1, (r2 h hh).2, act.others h (hne h (List.mem_append_left _ hh))]
        exact ⟨rfl, rfl⟩
    · intro k hk
      rw [List.mem_cons, not_or] at hk
      rw [(r3 k hk.2).1, (r3 k hk.2).2, act.others k hk.1, act.marks k hk.1]
      exact ⟨rfl, rfl⟩
    · intro f
      rw [r4, flag_fallFromOffer]
      cases s.flag f <;> cases decide (f = EventFlag.lost) <;> cases decide (f = EventFlag.changed) <;> simp
    · rw [r5, act.port]
    · have h1 : (s.fallFromOffer g).cells = s.cells := rfl
      have h2 : (s.fallFromOffer g).seats = s.seats := rfl
      rw [r6, act.rest, h1, h2]

/-! ## The quality window (R132 to R134) -/

/-- Two records agree on the level, its policy and floor, and the quality window. -/
structure SameQuality (r q : Record) : Prop where
  level : q.level = r.level
  floor : q.floor = r.floor
  policy : q.policy = r.policy
  windowTurns : q.windowTurns = r.windowTurns
  windowBad : q.windowBad = r.windowBad
  cleanWindows : q.cleanWindows = r.cleanWindows

theorem SameQuality.refl (r : Record) : SameQuality r r := ⟨rfl, rfl, rfl, rfl, rfl, rfl⟩

theorem SameQuality.trans {r q p : Record} (a : SameQuality r q) (b : SameQuality q p) : SameQuality r p :=
  ⟨b.level.trans a.level, b.floor.trans a.floor, b.policy.trans a.policy, b.windowTurns.trans a.windowTurns,
    b.windowBad.trans a.windowBad, b.cleanWindows.trans a.cleanWindows⟩

theorem sameQuality_report (h : Handle) (heard : Heard) (ack : Ack) :
    SameQuality (s.record h) ((s.report h heard ack).record h) := by
  rw [State.report, record_markChangedIf, record_setRecord_self, Record.takeSupply, Record.takePressTotal]
  split <;> exact ⟨rfl, rfl, rfl, rfl, rfl, rfl⟩

theorem sameQuality_modifyRecord (h : Handle) (f : Record → Record) (hf : ∀ r, SameQuality r (f r)) :
    SameQuality (s.record h) ((s.modifyRecord h f).record h) := by
  rw [State.modifyRecord, record_setRecord_self]
  exact hf _

theorem sameQuality_confirmMove (h : Handle) : SameQuality (s.record h) ((s.confirmMove h).record h) := by
  unfold State.confirmMove
  split
  · exact .refl _
  · rename_i n _
    have hseat : (s.setSeat? (s.record h).seat .free).record h = s.record h := by
      cases (s.record h).seat <;> rfl
    have := sameQuality_modifyRecord (s.setSeat? (s.record h).seat .free) h
      (fun r => { r with seat := some n, target := none }) fun r => ⟨rfl, rfl, rfl, rfl, rfl, rfl⟩
    rwa [hseat] at this

theorem sameQuality_acknowledgeItem (h : Handle) (item : Item) (refused : Bool) :
    SameQuality (s.record h) ((s.acknowledgeItem h item refused).record h) := by
  cases item with
  | set id version =>
    have := sameQuality_modifyRecord s h (·.modifyEntry id (·.acknowledge version refused))
      fun r => ⟨rfl, rfl, rfl, rfl, rfl, rfl⟩
    cases refused <;> exact this
  | remove id =>
    simp only [State.acknowledgeItem]
    split
    · exact .refl _
    · rename_i e _
      split
      · exact sameQuality_modifyRecord (s.freeCell e.cell) h _ fun r => ⟨rfl, rfl, rfl, rfl, rfl, rfl⟩
      · exact sameQuality_modifyRecord s h _ fun r => ⟨rfl, rfl, rfl, rfl, rfl, rfl⟩

theorem sameQuality_acknowledgeFrom (h : Handle) (refusals : BitVec 6) (items : List Item) :
    ∀ (i : Nat) (s : State), SameQuality (s.record h) ((s.acknowledgeFrom h refusals i items).record h) := by
  induction items with
  | nil => exact fun _ s => .refl _
  | cons item items ih => exact fun i s => (sameQuality_acknowledgeItem s h item _).trans (ih (i + 1) _)

/-- Whatever a turn carried, its confirmations leave the level and the quality window of a record that is neither FREE
nor RELEASING (R132). -/
theorem sameQuality_goodEffects (turn : LabelTurn) (ack : Ack) :
    SameQuality (s.record turn.handle) ((s.goodEffects turn ack).record turn.handle) := by
  have work : SameQuality (s.record turn.handle) ((s.confirmWork turn.handle turn.work ack).record turn.handle) := by
    unfold State.confirmWork
    split
    · exact .refl _
    · rename_i items _
      rw [State.acknowledgeUpdate, record_markChangedIf]
      exact sameQuality_acknowledgeFrom turn.handle ack.refusals items 0 s
    · rw [State.confirmMode, record_markChanged]
      exact sameQuality_modifyRecord s turn.handle _ fun r => ⟨rfl, rfl, rfl, rfl, rfl, rfl⟩
    · rw [State.confirmRetime, record_markChanged]
      exact sameQuality_modifyRecord s turn.handle _ fun r => ⟨rfl, rfl, rfl, rfl, rfl, rfl⟩
    · split
      · exact sameQuality_confirmMove s turn.handle
      · exact .refl _
    · exact .refl _
  unfold State.goodEffects
  split <;> first
    | exact work
    | exact sameQuality_confirmMove s turn.handle
    | exact .refl _
    | (rw [State.bind, record_markChanged, record_leaveOfferQueue]
       exact sameQuality_modifyRecord s turn.handle _ fun r => ⟨rfl, rfl, rfl, rfl, rfl, rfl⟩)

/-- The miss, hunt and state effects leave the level and the quality window. -/
theorem sameQuality_missEffects (r : Record) (limits : QualityLimits) (turn : LabelTurn) (outcome : TurnOutcome)
    (before : Record) : SameQuality r (r.missEffects limits turn outcome before).record := by
  unfold Record.missEffects
  split <;> first
    | exact ⟨rfl, rfl, rfl, rfl, rfl, rfl⟩
    | (split <;> first
        | exact ⟨rfl, rfl, rfl, rfl, rfl, rfl⟩
        | (simp only [Record.missInBound, Record.missInHunt]
           repeat' split
           all_goals exact ⟨rfl, rfl, rfl, rfl, rfl, rfl⟩))

end Sys2Proof.Machine
end

