-- ==== Sys2Proof/Tests/Slice0.lean ====
section
/-! SUPPORT. The model's own tests: ill-formed rows, command codes, one step of each row on a small state, and for each
statement with hypotheses a concrete state and operands that meet them. -/

namespace Sys2Proof.Tests

open Sys2Proof Sys2Proof.Machine

set_option maxRecDepth 10000

/-! ## Ill-formed rows, refused by Instr.wf -/

theorem test_wf_unknown_with_known_code : (Instr.unknownCommand 0x22 []).wf = false := by decide

theorem test_wf_unknown_with_unknown_code : (Instr.unknownCommand 0x08 [1]).wf = true := by decide

theorem test_wf_uplink_short_payload : (Instr.uplinkFrame (.decoded 2 0x10 0 2 [0x92] 0 0)).wf = false := by decide

theorem test_wf_uplink_long_payload : (Instr.uplinkFrame (.decoded 2 0x10 0 2 [0x92, 0, 0] 0 0)).wf = false := by decide

theorem test_wf_uplink : (Instr.uplinkFrame (.decoded 2 0x10 0 2 [0x92, 0] 0 0)).wf = true := by decide

/-- A length above 48 is one the Link Codec does not read a payload for (R186). -/
theorem test_wf_uplink_unread_payload : (Instr.uplinkFrame (.decoded 2 0x10 0 49 [] 0 0)).wf = true := by decide

/-! ## Command codes (11.3), and words of the table -/

theorem test_decode_port : [0x00, 0x01, 0x02, 0x03, 0x04, 0x05, 0x06, 0x07].map (fun c : Byte => decodeTransaction [c]) =
    [.noOperation [], .readResponse [], .readStatus [], .readIdent [], .resetCommand [], .readEvents [], .clearEvents [],
      .setEventMask []] := by decide

theorem test_decode_link_and_quality :
    [0x10, 0x11, 0x12, 0x13, 0x18, 0x19, 0x1A, 0x1B].map (fun c : Byte => decodeTransaction [c]) =
      [.setLinkTiming [], .startLink [], .stopLink [], .readTime [], .setQualityLimits [], .setLevel [], .startCensus [],
        .readCensus []] := by decide

theorem test_decode_admission_and_records :
    [0x20, 0x21, 0x22, 0x28, 0x29, 0x30, 0x31, 0x32, 0x33, 0x34, 0x35].map (fun c : Byte => decodeTransaction [c]) =
      [.readJoin [], .dropJoin [], .admitLabel [], .retire [], .forget [], .findSerial [], .readRecord [], .readField [],
        .readChanged [], .listState [], .takePresses []] := by decide

theorem test_decode_edits :
    [0x40, 0x41, 0x42, 0x43, 0x44, 0x45, 0x46, 0x47].map (fun c : Byte => decodeTransaction [c]) =
      [.beginEdit [], .stageField [], .stageRemove [], .stageMode [], .stagePeriod [], .stageSeat [], .commitEdit [],
        .abortEdit []] := by decide

theorem test_decode_others : decodeTransaction [] = .emptyTransaction ∧ decodeTransaction [0x48, 7] = .unknownCommand 0x48 [7] := by
  decide

theorem test_no_row_has_bits : decodeTableWord 8 0x22 = none := rfl

theorem test_withFetchWord : State.reset.withFetchWord 8 0x22 = State.reset := rfl

/-! ## Small states -/

/-- A transaction in progress, with the status byte 5Ah. -/
def selected (s : State) : State := { s with port := { s.port with select := .low 0x5A } }

/-- The part in a state of the link engine, at slot 0, position 0, tick 0. -/
def atLink (link : LinkState) (settle : Option Nat) : State :=
  { State.reset with time := { State.reset.time with link := link, receiverEnable := true, settle := settle } }

/-- The part in RUNNING. -/
def running : State := atLink .running none

/-- A record at its initial values but for its state, serial, generation and seat. -/
def someRecord (state : RecordState) : Record :=
  { Record.vacant with state := state, generation := 1, serial := 5, seat := some 0 }

/-- A record at handle 1, in seat 0, in RUNNING at superframe 1 (in which handle 1 is awake). -/
def withRecord (r : Record) : State :=
  (({ running with time := { running.time with superframe := 1 } }).setSeat 0 (.held 1)).setRecord 1 r

/-- A field entry in cell 0. -/
def someEntry : FieldEntry :=
  { id := 3, cell := 0, desired := 2, confirmed := some 1, refused := none, sent := true, removing := false }

/-- A BOUND record with one field entry. -/
def boundWithEntry : Record := { someRecord .bound with fields := [someEntry] }

/-- It stands at handle 1, and the value of its entry is 41h. -/
def withEntry : State := (withRecord boundWithEntry).writeCell 0 [0x41]

/-- A LABEL turn to handle 1. -/
def someTurn (work : Work) (phase : Phase) : LabelTurn :=
  { kind := .label, phase := phase, seat := 0, handle := 1, generation := 1, superframe := 1, slot := 1, work := work,
    tag := 0, level := 0, offset := .centered, plannedOpen := 64, plannedClose := 88 }

/-- A turn in flight. -/
def inTurn (turn : LabelTurn) (s : State) : State := { s with context := some (.label turn) }

/-- An edit open on handle 1. -/
def editing (ops : List StagedOp) (s : State) : State := { s with edit := some { handle := 1, ops := ops } }

/-- A join window in being. -/
def inJoinWindow (s : State) : State := { s with context := some (.joinWindow 1) }

/-- An OFFER to handle 1 in flight. -/
def inOffer (s : State) : State :=
  { s with context := some (.offer { handle := 1, generation := 1, superframe := 1 }), offerQueue := [1] }

/-- An ACK from link address 2 with tag 0, supply 9, press total 2, two corrected errors and this refusal bitmap. -/
def anAck (refusals : Byte) : Uplink :=
  .decoded 2 0x10 0 2 [0x92, refusals] (frameCheck [2, 0x10, 0, 2, 0x92, refusals]) 2

/-- A JOIN from a serial below 256, with supply 7. -/
def aJoin (serial : Byte) : Uplink :=
  .decoded 0 0x20 0 5 [0, 0, 0, serial, 7] (frameCheck [0, 0x20, 0, 5, 0, 0, 0, serial, 7]) 2

/-- The state that a row answers, if it answers one. -/
def after (i : Instr) (s : State) : Option State :=
  match exec i s with
  | .next t => some t
  | .fault _ => none
  | .refused _ => none

/-- The last result and the response that a command leaves. -/
def answer (i : Instr) (s : State) : Option (ResultCode × List Byte) :=
  (after i (selected s)).map fun t => (t.port.lastResult, t.port.response)

/-! ## One step of each row -/

theorem test_chip_select_fall : (after .chipSelectFall running).map (·.port.select) = some (.low 0x20) := by decide

/-- The data output while deselected, selected, and selected in reset. -/
theorem test_data_out_driven :
    running.dataOutDriven = false ∧ (selected running).dataOutDriven = true ∧
    ({ selected running with inReset := true } : State).dataOutDriven = false := by decide

theorem test_empty_transaction : (after .emptyTransaction (selected running)).map (·.port) = some running.port := by decide

theorem test_unknown_command : answer (.unknownCommand 0x08 [1, 2]) running = some (.unknown, []) := by decide

theorem test_no_operation : answer (.noOperation []) running = some (.ok, []) := by decide

theorem test_no_operation_length : answer (.noOperation [0]) running = some (.length, []) := by decide

theorem test_read_response :
    (after (.readResponse [0, 0, 0]) (selected { running with port := { running.port with response := [7, 8] } })).map
      (·.port.dataOut) = some [0x5A, 2, 7, 8] := by decide

theorem test_read_status :
    answer (.readStatus []) (withRecord (someRecord .bound)) =
      some (.ok, [2, 0, 1, 159, 188, 0, 2, 0, 0, 0, 0, 0, 0, 0, 0]) := by decide

theorem test_read_ident : answer (.readIdent []) running = some (.ok, [1, 0x60, 1, 160, 189, 2, 0]) := by decide

theorem test_reset_command :
    (after (.resetCommand []) (selected running)).map (fun t => (t.time.link, t.port.resetCause, t.time.receiverEnable)) =
      some (.stopped, .command, false) := by decide

theorem test_read_events : answer (.readEvents []) (running.setFlag .turnSkipped) = some (.ok, [1, 0, 0, 0]) := by decide

theorem test_clear_events :
    (after (.clearEvents [1, 4]) (selected ((running.setFlag .turnSkipped).setFlag .lost))).map (·.port.flags) =
      some 0x008 := by decide

theorem test_set_event_mask :
    (after (.setEventMask [1, 0]) (selected (running.setFlag .turnSkipped))).map
      (fun t => (t.port.mask, t.port.attention)) = some (0x100, true) := by decide

theorem test_set_link_timing :
    (after (.setLinkTiming [1, 0, 0, 64, 0]) (selected running)).map (fun t => (t.time.timing.turnLength, t.time.pendingTiming))
      = some (128, some ⟨256, 64, false⟩) := by decide

theorem test_set_link_timing_value : answer (.setLinkTiming [1, 0, 0, 65, 0]) running = some (.value, []) := by decide

theorem test_start_link :
    (after (.startLink []) (selected State.reset)).map (fun t => (t.time.link, t.time.settle, t.time.receiverEnable)) =
      some (.starting, some 0, true) := by decide

theorem test_stop_link :
    (after (.stopLink []) (selected running)).map (fun t => (t.time.link, t.flag .linkState)) = some (.stopped, true) := by
  decide

theorem test_read_time : answer (.readTime []) (withRecord (someRecord .bound)) = some (.ok, [0, 1, 0, 0, 2]) := by decide

theorem test_set_quality_limits :
    (after (.setQualityLimits [15, 8, 64, 64, 63, 15, 15]) (selected running)).map (·.limits) =
      some ⟨15, 8, 64, 64, 63, 15, 15⟩ := by decide

theorem test_set_level :
    (after (.setLevel [1, 0, 2]) (selected withEntry)).map (fun t => ((t.record 1).floor, (t.record 1).level)) =
      some (2, 2) := by decide

theorem test_start_census :
    (after (.startCensus [1, 2]) (selected running)).map (fun t => (t.census.state, t.census.remaining)) =
      some (.counting, 258) := by decide

theorem test_read_census : answer (.readCensus []) running = some (.ok, [0, 0, 0, 0, 0, 0, 0, 0, 0, 0, 0]) := by decide

theorem test_read_join : answer (.readJoin []) { running with joinQueue := [⟨0x01020304, 7, 3, 0x0105, 2⟩] } =
    some (.ok, [1, 2, 3, 4, 7, 3, 1, 5, 2]) := by decide

theorem test_drop_join : answer (.dropJoin []) running = some (.empty, []) := by decide

theorem test_admit :
    (after (.admitLabel [0, 0, 0, 9, 2, 0xFF, 1]) (selected withEntry)).map
      (fun t => (t.port.response, (t.record 0).state, (t.record 0).seat, t.offerQueue)) =
      some ([0], .offered, some 1, [0]) := by decide

theorem test_admit_duplicate : answer (.admitLabel [0, 0, 0, 5, 0, 0xFF, 0]) withEntry = some (.duplicate, []) := by decide

theorem test_retire :
    (after (.retire [1]) (selected withEntry)).map (fun t => (t.record 1).state) = some .releasing := by decide

theorem test_forget :
    (after (.forget [1]) (selected withEntry)).map
      (fun t => ((t.record 1).outcome, t.seatState 0, t.cellValue 0)) = some (.forgotten, .cooling 128, []) := by decide

theorem test_find_serial : answer (.findSerial [0, 0, 0, 5]) withEntry = some (.ok, [1]) := by decide

theorem test_read_record :
    answer (.readRecord [1]) withEntry =
      some (.ok, [2, 1, 0, 0, 0, 5, 0, 0, 0xFF, 0, 0xFF, 0, 0, 0, 0, 0, 0, 0, 0, 0, 0, 0, 0, 0, 1] ++
        [0x43, 0x11, 2, 1, 0]) := by decide

theorem test_read_field : answer (.readField [1, 3]) withEntry = some (.ok, [0x43, 0x11, 2, 1, 0, 0x41]) := by decide

theorem test_read_changed : answer (.readChanged []) (withEntry.markChanged 1) = some (.ok, [1, 2]) := by decide

theorem test_list_state : answer (.listState [2, 0]) withEntry = some (.ok, [1, 1]) := by decide

theorem test_take_presses : answer (.takePresses [1]) withEntry = some (.ok, [0]) := by decide

theorem test_begin_edit : (after (.beginEdit [1]) (selected withEntry)).map (·.edit) = some (some ⟨1, []⟩) := by decide

theorem test_stage_field :
    (after (.stageField [3, 1, 0x42]) (selected (editing [] withEntry))).map (·.edit) =
      some (some ⟨1, [.set 3 [0x42]]⟩) := by decide

theorem test_stage_remove :
    (after (.stageRemove [15]) (selected (editing [] withEntry))).map (·.edit) = some (some ⟨1, [.remove 15]⟩) := by decide

theorem test_stage_mode :
    (after (.stageMode [2]) (selected (editing [] withEntry))).map (·.edit) = some (some ⟨1, [.mode .dormant]⟩) := by decide

theorem test_stage_period :
    (after (.stagePeriod [6]) (selected (editing [] withEntry))).map (·.edit) = some (some ⟨1, [.period 6]⟩) := by decide

theorem test_stage_seat :
    (after (.stageSeat [0xFF]) (selected (editing [] withEntry))).map (·.edit) = some (some ⟨1, [.seat .any]⟩) := by decide

theorem test_commit_edit :
    (after (.commitEdit []) (selected (editing [.set 3 [0x42]] withEntry))).map
      (fun t => (t.edit, (t.record 1).fields.map (·.desired), t.cellValue 0)) = some (none, [3], [0x42]) := by decide

theorem test_abort_edit : answer (.abortEdit []) running = some (.noEdit, []) := by decide

theorem test_power_on : (after .powerOn (selected running)).map (fun t => (t.time.link, t.port.select)) =
    some (.stopped, .abandoned) := by decide

theorem test_reset_line : (after .resetLineAssert running).map (fun t => (t.inReset, t.time.receiverEnable)) =
    some (true, false) := by decide

theorem test_reset_line_release :
    (after .resetLineRelease { running with inReset := true }).map (fun t => (t.inReset, t.port.resetCause)) =
      some (false, .line) := by decide

theorem test_settle_expiry :
    (after (.settleExpiry true) (atLink .starting (some 2048))).map (fun t => (t.time.link, t.time.superframe)) =
      some (.running, 1) := by decide

theorem test_superframe_start :
    (after (.superframeStart true) { withEntry with seats := withEntry.seats.set 3 (.cooling 1) }).map
      (fun t => (t.time.superframe, t.seatState 3)) = some (2, .free) := by decide

theorem test_cooling_expiry :
    (after (.coolingExpiry 3) { running with seats := running.seats.set 3 (.cooling 0) }).map (·.seatState 3) =
      some .free := by decide

theorem test_offer_turn_timeout :
    (after .offerTurnTimeout (inOffer (withRecord (someRecord .offered)))).map
      (fun t => (t.context, t.port.skipped, t.time.position)) = some (none, 1, 1) := by decide

theorem test_join_window_start : (after .joinWindowStart running).map (·.context) = some (some (.joinWindow 0)) := by decide

theorem test_join_window_end : (after .joinWindowEnd (inJoinWindow running)).map (·.context) = some none := by decide

/-- The POLL of a BOUND record: address 2, kind 1 and tag 0, level 0 and superframe 1, no payload. -/
theorem test_turn_start :
    (after (.turnStart 0 true) (withRecord (someRecord .bound))).map (fun t => t.frameOut.take 4) =
      some [2, 0x10, 1, 0] := by decide

/-- The UPDATE of an entry: kind 2, payload length 4, and its set item with version 2 and the value 41h. -/
theorem test_turn_start_update :
    (after (.turnStart 0 true) withEntry).map (fun t => t.frameOut) =
      some ([2, 0x20, 1, 4, 3, 2, 1, 0x41] ++ be16 (frameCheck [2, 0x20, 1, 4, 3, 2, 1, 0x41]).toNat) := by decide

theorem test_downlink_sent :
    (after .downlinkSent (inTurn (someTurn .poll .sending) withEntry)).map (·.context) =
      some (some (.label (someTurn .poll .waiting))) := by decide

theorem test_planned_open :
    (after .plannedOpen (inTurn (someTurn .poll .waiting) withEntry)).map (·.context) =
      some (some (.label (someTurn .poll .listening))) := by decide

theorem test_planned_close :
    (after .plannedClose (inTurn (someTurn .poll .listening) withEntry)).map
      (fun t => ((t.record 1).missCount, t.lateRef)) = some (1, some ⟨2, 0⟩) := by decide

theorem test_uplink_frame :
    (after (.uplinkFrame (anAck 0)) (inTurn (someTurn (.update [.set 3 2]) .listening) withEntry)).map
      (fun t => ((t.record 1).fields.map (·.confirmed), (t.record 1).supply)) = some ([some 2], some 9) := by decide

theorem test_census_completion :
    (after .censusCompletion { running with census := { running.census with state := .counting } }).map
      (fun t => (t.census.state, t.flag .censusDone)) = some (.idle, true) := by decide

/-- The check of the nine digits 1 to 9 by the generator, start and order of R185. -/
theorem test_frame_check : frameCheck [0x31, 0x32, 0x33, 0x34, 0x35, 0x36, 0x37, 0x38, 0x39] = 0x29B1 := by decide

/-! ## Witnesses: for each statement, states and operands that meet the hypotheses of each clause -/

/-- Every record taken, and every seat. -/
def full : State :=
  { running with records := Vector.replicate 160 (someRecord .bound), seats := Vector.replicate 189 (.held 1) }

/-- The part held in reset. -/
def held : State := { State.reset with inReset := true }

theorem full_record (h : Handle) : full.record h = someRecord .bound := by simp [State.record, full]

theorem full_seat (n : SeatNo) : full.seatState n = .held 1 := by simp [State.seatState, full]

theorem running_record (h : Handle) : running.record h = Record.vacant := by
  simp [State.record, running, atLink, State.reset]

theorem withRecord_record (r : Record) (h : Handle) :
    (withRecord r).record h = if h = 1 then r else Record.vacant := by
  have base : ∀ (t : TimeBase) (n : SeatNo) (v : Seat),
      ({ running with time := t }.setSeat n v).record h = Record.vacant := fun _ _ _ => running_record h
  rw [withRecord, record_setRecord, base]

theorem withRecord_seat (r : Record) (n : SeatNo) :
    (withRecord r).seatState n = if n = 0 then .held 1 else .free := by
  have base : ∀ t : TimeBase, ({ running with time := t }).seatState n = .free := by
    intro t; simp [State.seatState, running, atLink, State.reset]
  show (State.setSeat _ 0 (.held 1)).seatState n = _
  rw [seatState_setSeat, base]

theorem witness_StepRunsFrontRow : ({ State.reset with pending := [.powerOn] } : State).pending = .powerOn :: [] := rfl

/-- In reset, STOPPED, the settle countdown at each side of 2048, and the last tick but one of a turn with and without a
turn in flight. -/
theorem witness_TickAdvancesSchedule :
    held.pending = [] ∧ held.inReset = true ∧ State.reset.time.link = .stopped ∧
    ((atLink .starting (some 2046)).time.settle = some 2046 ∧ (atLink .starting (some 2046)).time.link = .starting ∧
      2046 + 1 < 2048) ∧
    ((atLink .starting (some 2047)).time.settle = some 2047 ∧ 2048 ≤ 2047 + 1) ∧
    (running.inReset = false ∧ running.time.link = .running ∧ running.time.tick + 1 < running.time.timing.turnLength ∧
      running.context = none) ∧
    (let s := inTurn (someTurn .poll .waiting) { running with time := { running.time with tick := 63 } };
      s.pending = [] ∧ s.time.tick + 1 < s.time.timing.turnLength ∧ s.time.tick + 1 = (someTurn .poll .waiting).plannedOpen) := by
  decide

/-- The last tick before the first and the last seat, before the superframe start, and before the join window; in the
admission slot with an OFFER in flight in RUNNING and in STOPPING, with admissions closed, and with a join window. -/
theorem witness_TickAdvancesSchedule_last :
    let at_ (slot : Fin 64) (position : Fin 3) : State :=
      { running with time := { running.time with slot := slot, position := position, tick := 127 } }
    let closed : State :=
      { at_ 0 0 with time := { (at_ 0 0).time with timing := { running.time.timing with admissionOpen := false } } }
    let offered : OfferTurn := { handle := 1, generation := 1, superframe := 1 }
    ((at_ 0 2).pending = [] ∧ (at_ 0 2).inReset = false ∧ (at_ 0 2).time.link = .running ∧ (at_ 0 2).context = none ∧
      (at_ 0 2).time.timing.turnLength ≤ (at_ 0 2).time.tick + 1) ∧
    3 * (0 : Fin 64).val + (2 : Fin 3).val + 1 = (0 : SeatNo).val + 3 ∧
    3 * (63 : Fin 64).val + (1 : Fin 3).val + 1 = (188 : SeatNo).val + 3 ∧
    ((at_ 63 2).time.slot = 63 ∧ (at_ 63 2).time.position = 2) ∧
    ((at_ 0 0).time.slot = 0 ∧ (at_ 0 0).time.position = 0 ∧ (at_ 0 0).time.timing.admissionOpen = true) ∧
    (closed.time.timing.admissionOpen = false ∧ closed.time.link = .running ∧ closed.context = none ∧
      closed.time.timing.turnLength ≤ closed.time.tick + 1) ∧
    ((inOffer (at_ 0 0)).context = some (.offer offered) ∧ (inOffer closed).context = some (.offer offered) ∧
      (inOffer { at_ 0 0 with time := { (at_ 0 0).time with link := .stopping } }).time.link = .stopping) ∧
    ((at_ 0 1).time.position = 1 ∧ (inJoinWindow (at_ 0 1)).context = some (.joinWindow 1) ∧
      (inJoinWindow (at_ 0 2)).context = some (.joinWindow 1) ∧ (inJoinWindow (at_ 0 2)).time.slot = 0) := by decide

theorem witness_ChipSelectCapturesStatus :
    running.inReset = false ∧ held.inReset = true ∧ running.port.select = .high := by decide

/-- The transaction that the statements of the commands start from. -/
theorem witness_selected : (selected State.reset).selected 0x5A ∧ (selected withEntry).selected 0x5A ∧
    (selected full).selected 0x5A := by decide

theorem witness_UnknownCodeAndWrongLengthRefused :
    (0x08 : Byte) ∉ commandCodes ∧ (0xFF : Byte) ∉ commandCodes ∧
    (parameterCount 0x22 = some 7 ∧ [1, 2, 3, 4, 5, 6].length ≠ 7 ∧ [1, 2, 3, 4, 5, 6, 7, 8].length ≠ 7) ∧
    (parameterCount 0x00 = some 0 ∧ [1].length ≠ 0) ∧ ([3] : List Byte).length < 2 ∧
    ([0x41] : List Byte).length ≠ (2 : Byte).toNat := by decide

theorem witness_NothingTakenInReset :
    held.inReset = true ∧ ({ running with port := { running.port with select := .abandoned } } : State).port.select =
      .abandoned := by decide

theorem witness_SetLinkTimingByState :
    (∃ t1 t0 w1 w0 a : Byte, ¬(64 ≤ 256 * t1.toNat + t0.toNat ∧ 256 * t1.toNat + t0.toNat ≤ 1024 ∧
      (256 * t1.toNat + t0.toNat) % 4 = 0 ∧ 8 ≤ 256 * w1.toNat + w0.toNat ∧
      256 * w1.toNat + w0.toNat ≤ (256 * t1.toNat + t0.toNat) / 4 ∧ (a = 0 ∨ a = 1))) ∧
    (∃ t1 t0 w1 w0 a : Byte, 64 = 256 * t1.toNat + t0.toNat ∧ 16 = 256 * w1.toNat + w0.toNat ∧ a = 1) ∧
    (∃ t1 t0 w1 w0 a : Byte, 1024 = 256 * t1.toNat + t0.toNat ∧ 256 = 256 * w1.toNat + w0.toNat ∧ a = 0) ∧
    State.reset.time.link = .stopped ∧ (atLink .starting (some 0)).time.link = .starting ∧
    running.time.link = .running ∧ (atLink .stopping none).time.link = .stopping :=
  ⟨⟨0, 60, 0, 8, 2, by decide⟩, ⟨0, 64, 0, 16, 1, by decide⟩, ⟨4, 0, 1, 0, 0, by decide⟩, by decide⟩

/-- START_LINK and STOP_LINK in each state of the engine. -/
theorem witness_StartLinkByState :
    (selected State.reset).time.link = .stopped ∧ (selected (atLink .starting (some 0))).time.link = .starting ∧
    (selected running).time.link = .running ∧ (selected (atLink .stopping none)).time.link = .stopping := by decide

theorem witness_StopLinkDrainsTurn :
    (selected running).context = none ∧ (inJoinWindow running).context = some (.joinWindow 1) ∧
    (inTurn (someTurn .poll .sending) running).context = some (.label (someTurn .poll .sending)) ∧
    (inOffer running).context = some (.offer { handle := 1, generation := 1, superframe := 1 }) ∧
    (let s := inTurn (someTurn .poll .listening) (atLink .stopping none);
      s.inReset = false ∧ s.time.link = .stopping ∧ s.context = some (.label (someTurn .poll .listening)) ∧
      (someTurn .poll .listening).phase = .listening ∧ classifyUplink .undecodable = .damaged ∧
      classifyUplink (anAck 0) = .ack (byteOf ((1 : Handle).val + 1)) 0 ⟨9, 2, 0⟩ 2) := by decide

/-- The limits at the ends of their ranges, and one past the end. -/
theorem witness_LimitsAndCensusCommands :
    (2 ≤ (15 : Byte).toNat ∧ (8 : Byte).toNat ≤ 8 ∧ 1 ≤ (64 : Byte).toNat ∧ (64 : Byte).toNat ≤ (64 : Byte).toNat) ∧
    ¬(2 ≤ (1 : Byte).toNat) ∧ 256 * (0 : Byte).toNat + (0 : Byte).toNat = 0 ∧
    256 * (0xFF : Byte).toNat + (0xFF : Byte).toNat ≠ 0 := by decide

theorem witness_SetLevelByPolicy :
    (160 ≤ (160 : Byte).toNat ∧ 2 ≤ (2 : Byte).toNat ∧ 4 ≤ (4 : Byte).toNat) ∧
    ((selected withEntry).record 0).state = .free ∧ ((selected withEntry).record 1).state ≠ .free := by decide

theorem witness_JoinQueueHeadCommands :
    (selected running).joinQueue = [] ∧
    ({ selected running with joinQueue := [⟨5, 7, 1, 0, 2⟩] } : State).joinQueue = ⟨5, 7, 1, 0, 2⟩ :: [] := by decide

/-- The checks of ADMIT, each reached with those before it passed. -/
theorem witness_AdmitChecksInOrder :
    ((0 : Byte) ++ (0 : Byte) ++ (0 : Byte) ++ (0 : Byte) = 0#32 ∧ 189 ≤ (189 : Byte).toNat ∧ (254 : Byte).toNat ≤ 254) ∧
    ((0 : Byte) ++ (0 : Byte) ++ (0 : Byte) ++ (5 : Byte) = 5#32 ∧ (withEntry.record 1).state ≠ .free ∧
      (withEntry.record 1).serial = 5) ∧
    (∀ h, (full.record h).state ≠ .free ∧ (full.record h).serial ≠ 6) ∧ (∀ n, full.seatState n ≠ .free) ∧
    (withEntry.record 0).state = .free ∧ (0 : SeatNo).val = (0 : Byte).toNat ∧ withEntry.seatState 0 ≠ .free ∧
    ({ full with records := running.records } : State).seatState 188 ≠ .free ∧
    (({ full with records := running.records } : State).record 0).state = .free :=
  ⟨by decide, by decide, fun h => by rw [full_record]; decide, fun n => by rw [full_seat]; decide, by decide, by decide,
    by decide, by decide, by decide⟩

/-- The lowest free record is 0 and then 2; the lowest free seat is 1. -/
theorem witness_AdmitTakesLowestRecord :
    let s := (selected withEntry).setRecord 0 { someRecord .lost with serial := 9 }
    s.selected 0x5A ∧ (s.record 2).state = .free ∧ (∀ k, k < 2 → (s.record k).state ≠ .free) ∧
    (∀ k, (s.record k).state ≠ .free → (s.record k).serial ≠ 6) ∧ s.seatState 1 = .free ∧
    (∀ m, m < 1 → s.seatState m ≠ .free) ∧ s.seatState 188 = .free := by decide

/-- RETIRE and FORGET in each state, with and without an edit open. -/
theorem witness_RetireAndForgetByState :
    ((selected withEntry).record 159).state = .free ∧
    (((selected (editing [] withEntry)).record 1).state ≠ .free ∧
      (selected (editing [] withEntry)).edit = some { handle := 1, ops := [] }) ∧
    ((withRecord (someRecord .releasing)).record 1).state = .releasing ∧ (withRecord (someRecord .releasing)).edit = none ∧
    ((withRecord (someRecord .offered)).record 1).state = .offered ∧ (withRecord (someRecord .offered)).edit = none ∧
    (withEntry.record 1).state = .bound ∧ withEntry.edit = none := by decide

theorem witness_SerialAndStateSearches :
    (0xFF : Byte) ++ (0xFF : Byte) ++ (0xFF : Byte) ++ (0xFF : Byte) = 0xFFFFFFFF#32 ∧
    (∀ h, (withEntry.record h).state ≠ .free → (withEntry.record h).serial ≠ 6) ∧
    ((withEntry.record 1).state ≠ .free ∧ (withEntry.record 1).serial = 5 ∧
      ∀ k, (withEntry.record k).state ≠ .free → (withEntry.record k).serial = 5 → k = 1) ∧
    6 ≤ (6 : Byte).toNat ∧ 160 ≤ (160 : Byte).toNat := by decide

theorem witness_RecordReadLayouts :
    (withEntry.record 0).state = .free ∧ (withEntry.record 1).state ≠ .free ∧ 16 ≤ (16 : Byte).toNat ∧
    (∀ e ∈ (withEntry.record 1).fields, e.id ≠ 1) ∧
    (someEntry ∈ (withEntry.record 1).fields ∧ someEntry.id = 3 ∧
      ∀ f ∈ (withEntry.record 1).fields, f.id = 3 → f = someEntry) := by decide

theorem witness_ChangedAndPressesTaken :
    (∀ h, withEntry.isChanged h = false) ∧
    ((withEntry.markChanged 1).isChanged 1 = true ∧ ∀ k, k < 1 → (withEntry.markChanged 1).isChanged k = false) ∧
    (withEntry.record 159).state = .free ∧ (withEntry.record 1).state ≠ .free := by decide

theorem witness_BeginAndAbortEdit :
    (editing [] withEntry).edit ≠ none ∧ withEntry.edit = none ∧ (withEntry.record 0).state = .free ∧
    ((withRecord (someRecord .releasing)).record 1).state = .releasing ∧
    (withRecord (someRecord .releasing)).edit = none ∧ (withEntry.record 1).state ≠ .releasing := by decide

/-- Each STAGE command with a parameter in range and one out of range, and lists of 7 and of 8 operations. -/
theorem witness_StageCommandsAppend :
    (∃ id : FieldId, id ≠ 0 ∧ (15 : Byte) = byteOf id.val) ∧
    (1 ≤ ([0x41] : List Byte).length ∧ ([0x41] : List Byte).length = (1 : Byte).toNat) ∧
    12 < (List.replicate 13 (0 : Byte)).length ∧ 16 ≤ (16 : Byte).toNat ∧
    (∃ mode : Mode, (2 : Byte) = BitVec.ofNat 8 mode.code) ∧ 3 ≤ (3 : Byte).toNat ∧
    (∃ period : Exponent, (6 : Byte) = byteOf period.val) ∧ 7 ≤ (7 : Byte).toNat ∧
    (∃ seat : SeatNo, (188 : Byte) = byteOf seat.val) ∧ (189 ≤ (189 : Byte).toNat ∧ (254 : Byte).toNat ≤ 254) ∧
    (editing [] withEntry).edit = some { handle := 1, ops := [] } ∧
    (List.replicate 7 (StagedOp.remove 1)).length < 8 ∧ 8 ≤ (List.replicate 8 (StagedOp.remove 1)).length :=
  ⟨⟨15, by decide⟩, by decide, by decide, by decide, ⟨.dormant, by decide⟩, by decide, ⟨6, by decide⟩, by decide,
    ⟨188, by decide⟩, by decide, by decide, by decide, by decide⟩

theorem witness_CommitModePeriodSeat :
    ((editing [] withEntry).record 1).fields.length ≤ 6 ∧
    (editing [.mode .dormant] withEntry).edit = some { handle := 1, ops := [.mode .dormant] } ∧
    (editing [.period 0] withEntry).edit = some { handle := 1, ops := [.period 0] } ∧
    (let s := editing [.seat .any] withEntry;
      (s.record 1).seat = some 0 ∧ s.seatState 0 = .held 1 ∧ s.seatState 1 = .free ∧
      (∀ m, m < 1 → s.seatState m ≠ .free) ∧ (s.record 1).state = .bound ∧ (s.record 1).target = none) ∧
    (withRecord { someRecord .lost with target := some 0 }).record 1 = { someRecord .lost with target := some 0 } ∧
    ((withRecord (someRecord .offered)).record 1).state = .offered := by decide

/-! The populated state meets every invariant: one BOUND record with one entry, in RUNNING. -/

theorem withEntry_record (h : Handle) : withEntry.record h = if h = 1 then boundWithEntry else Record.vacant := by
  rw [withEntry]; exact withRecord_record _ h

theorem withEntry_cell (c : CellNo) : withEntry.cells[c.val] = if c = 0 then some [0x41] else none := by
  have base : (withRecord boundWithEntry).cells = Vector.replicate 512 none := rfl
  rw [withEntry, cells_writeCell, base]
  simp

theorem withEntry_fields {h : Handle} {e : FieldEntry} (he : e ∈ (withEntry.record h).fields) : h = 1 ∧ e = someEntry := by
  rw [withEntry_record] at he
  by_cases hh : h = 1
  · rw [if_pos hh] at he
    exact ⟨hh, List.mem_singleton.mp he⟩
  · rw [if_neg hh] at he
    simp [Record.vacant] at he

theorem witness_FieldInvariant : FieldInvariant withEntry where
  room := by decide
  order := by decide
  named := by decide
  vacant := by decide
  removing := by decide

theorem witness_CellInvariant : CellInvariant withEntry where
  owned h e he := by
    obtain ⟨rfl, rfl⟩ := withEntry_fields he
    exact ⟨[0x41], by decide, by decide, by decide⟩
  apart h k e he f hf _ := by
    obtain ⟨rfl, rfl⟩ := withEntry_fields he
    obtain ⟨rfl, rfl⟩ := withEntry_fields hf
    exact ⟨rfl, rfl⟩
  used c v hv := by
    rw [withEntry_cell] at hv
    by_cases hc : c = 0
    · exact ⟨1, someEntry, by decide, hc.symm⟩
    · rw [if_neg hc] at hv
      cases hv

theorem witness_SeatInvariant : SeatInvariant withEntry where
  held n h := by
    have hs : withEntry.seatState n = if n = 0 then .held 1 else .free := withRecord_seat boundWithEntry n
    rw [hs, withEntry_record]
    by_cases hn : n = 0 <;> by_cases hh : h = 1 <;>
      simp [hn, hh, boundWithEntry, someRecord, Record.vacant, eq_comm]
  present := by decide
  vacant := by decide
  offered := by decide
  apart h n := by
    rw [withEntry_record]
    by_cases hh : h = 1 <;> simp [hh, boundWithEntry, someRecord, Record.vacant]
  cooling n k := by
    have hs : withEntry.seatState n = if n = 0 then .held 1 else .free := withRecord_seat boundWithEntry n
    rw [hs]
    by_cases hn : n = 0 <;> simp [hn]

theorem witness_SerialInvariant : SerialInvariant withEntry where
  valid := by decide
  distinct h k := by
    rw [withEntry_record, withEntry_record]
    by_cases hh : h = 1 <;> by_cases hk : k = 1 <;> simp [hh, hk, boundWithEntry, someRecord, Record.vacant]
  room := by decide
  once := by decide
  entries e he := by cases he
  unknown e he := by cases he

theorem witness_OfferInvariant : OfferInvariant withEntry where
  once := by decide
  offered := by decide

theorem witness_EditInvariant : EditInvariant (editing [.mode .blank] withEntry) := by
  intro edit he
  cases he
  refine ⟨by decide, by decide, by decide, ?_⟩
  intro op hop
  cases List.mem_singleton.mp hop
  trivial

theorem witness_RangeInvariant : RangeInvariant withEntry where
  records h := by
    rw [withEntry_record]
    by_cases hh : h = 1
    · rw [if_pos hh]; constructor <;> decide
    · rw [if_neg hh]; constructor <;> decide
  limits := by decide
  counting := by decide
  idle := by decide
  remaining := by decide
  running := by decide
  latched := by decide

theorem witness_PortInvariant : PortInvariant withEntry where
  attention := by decide
  skipped := by decide
  late := by decide
  inReset := by decide

theorem witness_LinkInvariant : LinkInvariant (inTurn (someTurn .poll .waiting) withEntry) where
  still := by decide
  settle := by decide
  countdown n hn := by cases hn
  enable := by decide
  drain h := by cases h
  timing := by decide
  pendingTiming t ht := by cases ht
  tick := by decide
  window turn ht := by cases ht; decide

/-- The state of the edit meets the invariants of records, seats, fields and cells as well. -/
theorem witness_editing :
    let s := editing [.mode .blank] withEntry
    SeatInvariant s ∧ FieldInvariant s ∧ CellInvariant s :=
  ⟨⟨witness_SeatInvariant.held, witness_SeatInvariant.present, witness_SeatInvariant.vacant,
      witness_SeatInvariant.offered, witness_SeatInvariant.apart, witness_SeatInvariant.cooling⟩,
    ⟨witness_FieldInvariant.room, witness_FieldInvariant.order, witness_FieldInvariant.named,
      witness_FieldInvariant.vacant, witness_FieldInvariant.removing⟩,
    ⟨witness_CellInvariant.owned, witness_CellInvariant.apart, witness_CellInvariant.used⟩⟩

/-- A step from each of the states that meet the invariants answers a next state. -/
theorem witness_StepKeeps :
    (∃ t, step withEntry = .next t) ∧ (∃ t, step (inTurn (someTurn .poll .waiting) withEntry) = .next t) ∧
    (∃ t, step (editing [.mode .blank] withEntry) = .next t) := ⟨⟨_, rfl⟩, ⟨_, rfl⟩, ⟨_, rfl⟩⟩

/-! The witnesses of the statements that take the invariants, and of the events. -/

/-- The `n` unsent entries of a record of `packed`. -/
def packedFields (n h : Nat) : List FieldEntry :=
  (List.range n).map fun i => .new (Fin.ofNat 16 (i + 1)) (Fin.ofNat 512 (n * h + i))

/-- `k` BOUND records of `n` unsent entries each, whose cells are the first `k * n` of the pool. -/
def packed (k n : Nat) : State :=
  { running with
    records := Vector.ofFn fun h : Fin 160 =>
      if h.val < k then { someRecord .bound with fields := packedFields n h.val } else Record.vacant
    cells := Vector.ofFn fun c : Fin 512 => if c.val < k * n then some [0x41] else none }

theorem packed_cell (k n : Nat) (c : CellNo) :
    (packed k n).cells[c.val] = if c.val < k * n then some [0x41] else none := by
  simp [packed]

theorem packed_record (k n : Nat) (h : Handle) :
    (packed k n).record h =
      if h.val < k then { someRecord .bound with fields := packedFields n h.val } else Record.vacant := by
  simp [packed, State.record]

theorem packed_fields {k n : Nat} {h : Handle} {e : FieldEntry} (he : e ∈ ((packed k n).record h).fields) :
    h.val < k ∧ ∃ i < n, e = .new (Fin.ofNat 16 (i + 1)) (Fin.ofNat 512 (n * h.val + i)) := by
  rw [packed_record] at he
  split at he
  · obtain ⟨i, hi, rfl⟩ := List.mem_map.mp he
    exact ⟨by assumption, i, List.mem_range.mp hi, rfl⟩
  · cases he

/-- The cell of entry `i` of record `h` stands in the pool. -/
theorem packed_place {k n h i : Nat} (hk : h < k) (hi : i < n) : n * h + i < k * n := by
  calc n * h + i < n * h + n := by omega
    _ = n * (h + 1) := by ring
    _ ≤ n * k := Nat.mul_le_mul_left n hk
    _ = k * n := Nat.mul_comm n k

theorem packed_FieldInvariant {k n : Nat} (hn : n ≤ 6) : FieldInvariant (packed k n) where
  room h := by
    rw [packed_record]
    split
    · simpa [packedFields] using hn
    · decide
  order h := by
    rw [packed_record]
    split
    · show ((packedFields n h.val).map FieldEntry.id).Pairwise (· < ·)
      have hi : (packedFields n h.val).map FieldEntry.id = (List.range n).map fun i => (Fin.ofNat 16 (i + 1) : FieldId) := by
        simp [packedFields, FieldEntry.new, Function.comp_def]
      rw [hi]
      interval_cases n <;> decide
    · exact List.Pairwise.nil
  named h e he := by
    obtain ⟨_, i, hi, rfl⟩ := packed_fields he
    have : i < 6 := by omega
    show (Fin.ofNat 16 (i + 1) : FieldId) ≠ 0
    interval_cases i <;> decide
  vacant h hs := by
    rw [packed_record] at hs ⊢
    split at hs
    · cases hs
    · rename_i hk
      rw [if_neg hk]
      rfl
  removing h e he hr := by
    obtain ⟨_, i, _, rfl⟩ := packed_fields he
    cases hr

theorem packed_CellInvariant {k n : Nat} (hn : n ≤ 6) (hk : k ≤ 160) (hc : k * n ≤ 512) : CellInvariant (packed k n) where
  owned h e he := by
    obtain ⟨hh, i, hi, rfl⟩ := packed_fields he
    have hp := packed_place hh hi
    refine ⟨[0x41], (packed_cell k n (Fin.ofNat 512 (n * h.val + i))).trans (if_pos ?_), by decide, by decide⟩
    rwa [Fin.val_ofNat, Nat.mod_eq_of_lt (by omega)]
  apart h l e he f hf hcell := by
    obtain ⟨hh, i, hi, rfl⟩ := packed_fields he
    obtain ⟨hl, j, hj, rfl⟩ := packed_fields hf
    have hp := packed_place hh hi
    have hq := packed_place hl hj
    have hv := congrArg Fin.val hcell
    simp only [FieldEntry.new, Fin.val_ofNat] at hv
    rw [Nat.mod_eq_of_lt (by omega), Nat.mod_eq_of_lt (by omega)] at hv
    have h1 : h.val = l.val := by
      have a := congrArg (· / n) hv
      simpa [Nat.mul_add_div (show 0 < n by omega), Nat.div_eq_of_lt hi, Nat.div_eq_of_lt hj] using a
    obtain rfl : h = l := Fin.ext h1
    obtain rfl : i = j := by omega
    exact ⟨rfl, rfl⟩
  used c v hv := by
    rw [packed_cell] at hv
    split at hv
    · rename_i hlt
      have hn0 : 0 < n := Nat.pos_of_ne_zero (by rintro rfl; simp at hlt)
      have hd : c.val / n < k := Nat.div_lt_of_lt_mul (by rwa [Nat.mul_comm] at hlt)
      refine ⟨⟨c.val / n, by omega⟩, .new (Fin.ofNat 16 (c.val % n + 1)) (Fin.ofNat 512 (n * (c.val / n) + c.val % n)),
        ?_, ?_⟩
      · rw [packed_record, if_pos hd]
        exact List.mem_map.mpr ⟨c.val % n, List.mem_range.mpr (Nat.mod_lt _ hn0), rfl⟩
      ext
      simp only [FieldEntry.new, Fin.val_ofNat, Nat.div_add_mod]
      exact Nat.mod_eq_of_lt c.isLt
    · cases hv

/-- A full record, and a full pool, in order. -/
theorem witness_packed :
    (FieldInvariant (packed 2 6) ∧ CellInvariant (packed 2 6)) ∧ FieldInvariant (packed 128 4) ∧
    CellInvariant (packed 128 4) ∧ ∀ c : CellNo, (packed 128 4).cells[c.val] ≠ none :=
  ⟨⟨packed_FieldInvariant (by decide), packed_CellInvariant (by decide) (by decide) (by decide)⟩,
    packed_FieldInvariant (by decide), packed_CellInvariant (by decide) (by decide) (by decide), fun c => by
      rw [packed_cell, if_pos (by omega)]; simp⟩

/-- REMOVE of an absent and of a sent and an unsent entry; SET of the present value, of another, past six entries, with
no free cell, and into the lowest free cell; a version passed over. -/
theorem witness_CommitOneFieldOperation :
    (editing [.remove 3] withEntry).edit = some { handle := 1, ops := [.remove 3] } ∧
    (∀ e ∈ (withEntry.record 1).fields, e.id ≠ 15) ∧
    (someEntry ∈ (withEntry.record 1).fields ∧ someEntry.removing = false ∧ someEntry.sent = true ∧
      withEntry.cellOf someEntry = some [0x41]) ∧
    ((withEntry.record 1).fields.length < 6 ∧ withEntry.cells[(1 : CellNo).val] = none ∧
      ∀ d : CellNo, d < 1 → withEntry.cells[d.val] ≠ none) ∧
    (let s := packed 2 6;
      (s.record 1).fields.length = 6 ∧ (∀ e ∈ (s.record 1).fields, e.id ≠ 15) ∧
      FieldEntry.new 1 6 ∈ (s.record 1).fields ∧ (FieldEntry.new 1 6).sent = false) ∧
    (((packed 128 4).record 1).fields.length < 6 ∧ ∀ e ∈ ((packed 128 4).record 1).fields, e.id ≠ 15) ∧
    (let s := inTurn (someTurn (.update [.set 3 3]) .listening) withEntry;
      (after (.commitEdit []) (selected (editing [.set 3 [0x42]] s))).map (fun t => (t.record 1).fields.map (·.desired)) =
        some [4]) := by decide

/-- The checks of a commit, each reached with those before it passed, and a list of several operations that passes. -/
theorem witness_CommitIsAllOrNothing :
    (selected withEntry).edit = none ∧ (selected (editing [.remove 1] withEntry)).edit ≠ none ∧
    (let r := withEntry.record 1;
      r.presentAfter [.set 2 [7], .remove 2] 2 = false ∧ r.presentAfter [.remove 3] 3 = true ∧
      (List.finRange 16).countP (r.presentAfter [.set 1 [7], .set 2 [7], .set 4 [7], .set 5 [7], .set 6 [7]]) = 6 ∧
      (List.finRange 16).countP (r.presentAfter [.set 1 [7], .set 2 [7], .set 4 [7], .set 5 [7], .set 6 [7], .set 7 [7]]) =
        7) ∧
    (let r := (packed 128 4).record 1; let ops : List StagedOp := [.remove 1, .set 5 [7], .set 6 [7]];
      (List.finRange 16).countP (r.presentAfter ops) = 5 ∧
      ((List.finRange 16).countP fun id => r.presentAfter ops id && !r.presentAfter [] id) = 2 ∧
      ((List.finRange 16).countP fun id => r.presentAfter [] id && !r.presentAfter ops id) = 1) ∧
    (lastOf StagedOp.seat? [.seat .any, .mode .blank, .seat (.named 0), .period 2] = some (.named 0) ∧
      (withEntry.record 1).seat = some 0 ∧ withEntry.seatState 0 ≠ .free ∧ withEntry.seatState 1 = .free ∧
      (∀ m, m < 1 → withEntry.seatState m ≠ .free) ∧ (withEntry.record 1).state ≠ .offered ∧
      (withEntry.record 1).target = none) ∧
    ((withRecord { someRecord .bound with target := some 7 }).record 1).target ≠ none ∧
    ((withRecord (someRecord .offered)).record 1).state = .offered ∧ (∀ n, full.seatState n ≠ .free) :=
  ⟨by decide, by decide, by decide, by decide, by decide, by decide, by decide, fun n => by rw [full_seat]; decide⟩

/-- A commit of several operations: the last on a field id and the last of a kind count. -/
theorem test_commit_several :
    (after (.commitEdit []) (selected (editing
      [.set 2 [7], .set 2 [8], .remove 3, .mode .blank, .set 3 [0x41], .mode .dormant, .seat .any] withEntry))).map
      (fun t => ((t.record 1).fields.map (·.id), t.cellValue 1, (t.record 1).modeDesired, (t.record 1).target)) =
      some ([2, 3], [8], .dormant, some 1) := by decide

theorem witness_ResetsTakeInitialValues :
    running.inReset = false ∧ (held.inReset = true ∧ held.poweredUp = true) ∧
    ({ held with poweredUp := false } : State).poweredUp = false := by decide

theorem witness_SuperframeStartAdvances :
    (running.inReset = false ∧ running.time.link = .running ∧ running.context = none ∧ running.offerQueue = []) ∧
    ((atLink .starting (some 2048)).time.link = .starting ∧ (atLink .starting (some 2048)).context = none) ∧
    State.reset.time.link ≠ .running ∧ running.time.link ≠ .starting := by decide

/-- An OFFERED record with three and with four OFFERs sent. -/
theorem witness_OfferTurnServesQueue :
    let s (n : Nat) : State := { withRecord { someRecord .offered with attempts := n } with offerQueue := [1] }
    ((s 3).inReset = false ∧ (s 3).time.link = .running ∧ (s 3).context = none ∧ (s 3).offerQueue = 1 :: [] ∧
      ((s 3).record 1).seat = some 0 ∧ ((s 3).record 1).attempts < 4) ∧ 4 ≤ ((s 4).record 1).attempts ∧
    (let q := { (s 4).setRecord 2 (someRecord .offered) with offerQueue := [1, 2] };
      q.offerQueue = [1] ++ [2] ∧ ([1] ++ [2] : List Handle).Nodup ∧ 4 ≤ (q.record 1).attempts ∧
      (q.record 2).attempts < 4 ∧ (q.record 2).seat = some 0) := by decide

/-- An exhausted head falls to LOST, and the record behind it is offered in the same offer turn. -/
theorem test_offer_behind_exhausted :
    (let s : State := withRecord { someRecord .offered with attempts := 4 };
      after (.superframeStart true) { s.setRecord 2 (someRecord .offered) with offerQueue := [1, 2] }).map
      (fun t => ((t.record 1).state, t.offerQueue, t.context)) =
      some (.lost, [2], some (.offer { handle := 2, generation := 1, superframe := 2 })) := by decide

theorem witness_CompletionRowsActAtZero :
    ({ running with seats := running.seats.set 3 (.cooling 0) } : State).seatState 3 = .cooling 0 ∧
    ({ running with seats := running.seats.set 3 (.cooling 1) } : State).seatState 3 ≠ .cooling 0 ∧
    (let s : State := { running with census := { running.census with state := .counting } };
      s.census.state = .counting ∧ s.census.remaining = 0) ∧ running.census.state = .idle := by decide

theorem witness_AdmissionSlotEvents :
    ((inOffer running).inReset = false ∧ (inOffer running).time.link ≠ .stopping) ∧
    (inOffer (atLink .stopping none)).time.link = .stopping ∧
    ((inOffer running).time.link = .running ∧ (inOffer running).time.timing.admissionOpen = true) ∧
    (running.time.link = .running ∧ running.time.timing.admissionOpen = true ∧ running.context = none) ∧
    State.reset.time.link ≠ .running ∧ (inJoinWindow running).context = some (.joinWindow 1) := by decide

theorem witness_WakeRule :
    (someRecord .lost).state = .lost ∧ ({ someRecord .bound with modeConfirmed := .dormant }).modeConfirmed = .dormant ∧
    ((someRecord .bound).state ≠ .lost ∧ (someRecord .bound).modeConfirmed ≠ .dormant) ∧
    awake 6 159 (0xFFDF : BitVec 16) = true ∧ awake 6 159 (0xFFFF : BitVec 16) = false := by decide

/-- A seat FREE, COOLING, and HELD by a record that sleeps and one that is awake. -/
theorem witness_TurnStartIdleOrSkipped :
    (running.inReset = false ∧ running.time.link = .running ∧ running.context = none) ∧
    ((63 : Fin 64).val = (188 : SeatNo).val / 3 + 1 ∧ (2 : Fin 3).val = (188 : SeatNo).val % 3) ∧
    ((1 : Fin 64).val = (0 : SeatNo).val / 3 + 1 ∧ (0 : Fin 3).val = (0 : SeatNo).val % 3) ∧
    running.seatState 188 = .free ∧
    ({ running with seats := running.seats.set 3 (.cooling 128) } : State).seatState 3 = .cooling 128 ∧
    (withEntry.seatState 0 = .held 1 ∧ (withEntry.record 1).state ≠ .free ∧
      awake (withEntry.record 1).effectiveExponent 1 withEntry.time.superframe = true) ∧
    (let s := withRecord { someRecord .lost with period := 0 };
      awake (s.record 1).effectiveExponent 1 (2 : BitVec 16) = false ∧ s.seatState 0 = .held 1) := by decide

/-- A turn start for each frame kind that the selection can give. -/
theorem witness_WorkSelectionPriority :
    (withEntry.inReset = false ∧ withEntry.time.link = .running ∧ withEntry.context = none ∧
      withEntry.seatState 0 = .held 1 ∧ (withEntry.record 1).state ≠ .free ∧
      awake (withEntry.record 1).effectiveExponent 1 withEntry.time.superframe = true) ∧
    ((withEntry.record 1).target ≠ some 0 ∧ (withEntry.record 1).target = none ∧
      (withEntry.record 1).modeDesired = (withEntry.record 1).modeConfirmed ∧
      (withEntry.record 1).pendingPeriod = none ∧ someEntry ∈ (withEntry.record 1).fields ∧
      someEntry.status = .pending ∧ withEntry.edit = none) ∧
    ((editing [] withEntry).edit = some { handle := 1, ops := [] }) ∧
    ((withRecord (someRecord .releasing)).record 1).state = .releasing ∧
    ((withRecord (someRecord .offered)).record 1).state = .offered ∧
    ((withRecord { someRecord .bound with target := some 7 }).record 1).target = some 7 ∧
    ((withRecord { someRecord .bound with seat := some 7, target := some 0 }).record 1).target = some 0 ∧
    ((withRecord { someRecord .bound with modeDesired := .blank }).record 1).modeHold = 0 ∧
    ((withRecord { someRecord .bound with pendingPeriod := some 3 }).record 1).pendingPeriod = some 3 := by decide

theorem witness_PackingFitsCapacity :
    (after (.turnStart 0 true) withEntry).map (·.context) =
      some (some (.label (someTurn (.update [.set 3 2]) .sending))) := by decide

/-- At level 3 an item of 15 bytes is passed over behind one of 13, and a remove item behind it is carried. -/
theorem test_packing_passes_over :
    let entry (id : FieldId) (cell : CellNo) : FieldEntry := { FieldEntry.new id cell with sent := true }
    let r : Record :=
      { someRecord .bound with level := 3, fields := [entry 1 0, entry 2 1, { entry 3 2 with removing := true }] }
    (((withRecord r).writeCell 0 (List.replicate 10 0)).writeCell 1 (List.replicate 12 0)).packUpdate r =
      [.set 1 1, .remove 3] := by decide

/-- A turn in SENDING before and after its planned open point, an offer turn in RUNNING and in STOPPING, and a claim that
is void. -/
theorem witness_DownlinkSentEffects :
    (let s := inTurn (someTurn .release .sending) (withRecord (someRecord .releasing));
      s.inReset = false ∧ (someTurn .release .sending).phase = .sending ∧ s.time.tick < (someTurn .release .sending).plannedOpen ∧
      (s.record 1).state ≠ .free ∧ (s.record 1).generation = (someTurn .release .sending).generation) ∧
    (inTurn (someTurn .poll .sending) running).record 1 = Record.vacant ∧
    ((inOffer (withRecord (someRecord .offered))).time.link = .running ∧
      ((inOffer (withRecord (someRecord .offered))).record 1).state = .offered ∧
      ((inOffer (withRecord (someRecord .offered))).record 1).generation = 1) ∧
    (let s := withRecord (someRecord .offered);
      (inOffer { s with time := { s.time with link := .stopping } }).time.link = .stopping) ∧
    ((inOffer withEntry).record 1).state ≠ .offered ∧ (someTurn .poll .listening).phase ≠ .sending ∧
    (inJoinWindow running).context = some (.joinWindow 1) ∧ running.context = none := by decide

theorem witness_PlannedPointsBeforeReply :
    (inTurn (someTurn .poll .waiting) withEntry).context = some (.label (someTurn .poll .waiting)) ∧
    (inTurn (someTurn .poll .sending) withEntry).time.link = .running ∧
    (inTurn (someTurn .poll .sending) (atLink .stopping none)).time.link = .stopping := by decide

/-- The cadence test passes with no change pending, with SHOW and BLANK apart, and in a superframe common to both
exponents; it fails in another while a period or a change to DORMANT is pending. -/
theorem witness_passesCadence :
    let slow : Record := { someRecord .bound with pendingPeriod := some 6 }
    let sleepy : Record := { someRecord .missing with modeDesired := .dormant }
    (someRecord .bound).passesCadence 1 1 ∧ ({ someRecord .bound with modeDesired := .blank }).passesCadence 1 1 ∧
      slow.passesCadence 1 65 ∧ sleepy.passesCadence 1 65 ∧ ¬slow.passesCadence 1 64 ∧ ¬sleepy.passesCadence 1 64 := by
  simp only [← Record.cadenceTest_iff]
  decide

/-- A miss below the miss limit and one that reaches it; that the cadence test passes is `witness_passesCadence`. -/
theorem witness_ChargedMissOnBoundRecord :
    let s (n : Nat) := inTurn (someTurn .poll .listening) (withRecord { someRecord .bound with missCount := n })
    ((s 2).inReset = false ∧ (s 2).time.link = .running ∧ (s 2).context = some (.label (someTurn .poll .listening)) ∧
      (someTurn .poll .listening).kind = .label ∧ ((s 2).record 1).state = .bound ∧ ((s 2).record 1).generation = 1 ∧
      (s 2).record 1 = { someRecord .bound with missCount := 2 } ∧ (someTurn .poll .listening).superframe = 1) ∧
    ((s 2).record 1).missCount + 1 < (s 2).limits.missLimit ∧ (s 3).limits.missLimit ≤ ((s 3).record 1).missCount + 1 := by
  decide

/-- A hunt that goes on, one that moves on, one that ends, and the closes that change nothing. -/
theorem witness_HuntMovesOnOrLoses :
    let r (n : Nat) (c : WindowOffset) : Record := { someRecord .missing with huntMisses := n, huntCandidate := c }
    let s (r : Record) := inTurn (someTurn .poll .listening) (withRecord r)
    ((s (r 0 .late)).inReset = false ∧ (s (r 0 .late)).time.link = .running ∧ ((s (r 0 .late)).record 1).state = .missing ∧
      ((s (r 0 .late)).record 1).generation = 1 ∧ ((s (r 0 .late)).record 1).huntMisses + 1 < (s (r 0 .late)).limits.huntLength) ∧
    ((s (r 1 .late)).limits.huntLength ≤ ((s (r 1 .late)).record 1).huntMisses + 1 ∧
      WindowOffset.early ≠ ((s (r 1 .late)).record 1).offset) ∧
    WindowOffset.centered = ((s (r 1 .wide)).record 1).offset ∧
    (let slow : Record := { someRecord .bound with pendingPeriod := some 6 };
      (inTurn { someTurn .poll .listening with superframe := 64 } (withRecord slow)).record 1 = slow) ∧
    (let probe : LabelTurn := { someTurn .poll .listening with kind := .probe, superframe := 64 };
      (inTurn probe (withRecord (someRecord .lost))).context = some (.label probe) ∧ probe.kind = .probe ∧
      ((inTurn probe (withRecord (someRecord .lost))).record 1).state = .lost) ∧
    ((s (someRecord .offered)).record 1).state = .offered ∧
    classifyUplink .undecodable = .damaged := by decide

theorem witness_StrayAndLateReplies :
    (someTurn .poll .waiting).phase ≠ .listening ∧ (inOffer running).inReset = false ∧
    classifyUplink (aJoin 9) = .join 0 9 7 2 ∧
    (running.context = none ∧ running.lateRef = none) ∧
    ({ running with lateRef := some ⟨2, 0⟩ } : State).lateRef = some ⟨2, 0⟩ ∧
    classifyUplink (anAck 0) = .ack 2 0 ⟨9, 2, 0⟩ 2 := by decide

/-- An ACK, a JOIN, a frame of another kind, a frame at the payload limit, and frames that are DAMAGED. -/
theorem witness_UplinkClassification :
    frameCheck ([2, 0x10, 0, 2] ++ [0x92, 0]) = frameCheck [2, 0x10, 0, 2, 0x92, 0] ∧
    ((0x10 : Byte).extractLsb' 4 4 = 1#4 ∧ (0x20 : Byte).extractLsb' 4 4 = 2#4 ∧ (0x30 : Byte).extractLsb' 4 4 = 3#4) ∧
    ((48 : Byte).toNat ≤ 48 ∧ ¬(49 : Byte).toNat ≤ 48) ∧
    classifyUplink (.decoded 2 0x10 0 2 [0, 0] (frameCheck [2, 0x10, 0, 2, 0, 0] ^^^ 1) 0) = .damaged := by decide

theorem witness_GoodReplyBindsOffered :
    let s := inTurn (someTurn .poll .listening) { withRecord (someRecord .offered) with offerQueue := [1] }
    s.inReset = false ∧ s.time.link = .running ∧ s.context = some (.label (someTurn .poll .listening)) ∧
    classifyUplink (anAck 0) = .ack (byteOf ((1 : Handle).val + 1)) 0 ⟨9, 2, 0⟩ 2 ∧ (s.record 1).state = .offered ∧
    (s.record 1).generation = (someTurn .poll .listening).generation := by decide

/-- The directives that a reply can confirm, on records of the three states. -/
theorem witness_GoodReplyConfirmsDirective :
    let s (w : Work) (r : Record) := inTurn (someTurn w .listening) (withRecord r)
    let bound : Record := { someRecord .bound with pendingPeriod := some 3, target := some 7 }
    ((s (.retime 3) bound).inReset = false ∧ (s (.retime 3) bound).time.link = .running ∧
      ((s (.retime 3) bound).record 1).state = .bound ∧ ((s (.retime 3) bound).record 1).generation = 1 ∧
      ((s (.retime 3) bound).record 1).pendingPeriod = some 3) ∧
    ((s (.mode .dormant) (someRecord .missing)).record 1).state = .missing ∧
    (((s (.move 7) bound).record 1).target = some 7 ∧ ((s (.move 7) bound).record 1).seat = some 0) ∧
    (((s .poll (someRecord .lost)).record 1).state = .lost ∧ ((s .poll (someRecord .lost)).record 1).target = none) ∧
    (let r : Record := { someRecord .bound with lowSupply := true, pressBaseline := some 1 };
      ((s .poll r).record 1).lowSupply ≠ decide ((9 : BitVec 4).toNat ≤ (s .poll r).limits.supplyThreshold) ∧
      r.presses < min (r.presses + ((2 : BitVec 4) - 1).toNat) 255) := by
  decide

/-- A poll of a BOUND record whose report is what it was inserts nothing; one with a rise of the press total does. -/
theorem test_poll_reply_inserts :
    let s (b : BitVec 4) := inTurn (someTurn .poll .listening) (withRecord { someRecord .bound with pressBaseline := some b })
    ((after (.uplinkFrame (anAck 0)) (s 2)).map fun t => (t.isChanged 1, (t.record 1).presses)) = some (false, 0) ∧
    ((after (.uplinkFrame (anAck 0)) (s 1)).map fun t => (t.isChanged 1, (t.record 1).presses)) = some (true, 1) := by
  decide

/-- A set item acknowledged, one refused, a removal completed, and one that was revived. -/
theorem witness_UpdateAcknowledgement :
    let s := inTurn (someTurn (.update [.set 3 2]) .listening) withEntry
    (s.inReset = false ∧ s.time.link = .running ∧ (s.record 1).state = .bound ∧ (s.record 1).generation = 1 ∧
      someEntry ∈ (s.record 1).fields ∧ [Item.set 3 2][0]? = some (.set someEntry.id 2)) ∧
    classifyUplink (anAck 0) = .ack (byteOf ((1 : Handle).val + 1)) 0 ⟨9, 2, 0⟩ 2 ∧
    (classifyUplink (anAck 1) = .ack (byteOf ((1 : Handle).val + 1)) 0 ⟨9, 2, 1⟩ 2 ∧ (1 : BitVec 6).getLsbD 0 = true) ∧
    (Item.remove someEntry.id ∈ [Item.remove 3] ∧ someEntry.removing = false ∧
      ({ someEntry with removing := true }).removing = true) := by decide

/-- A RELEASE acknowledged, unanswered at count 4, and unanswered below it. -/
theorem witness_ReleaseCompletes :
    let s (n : Nat) := inTurn (someTurn .release .listening) (withRecord { someRecord .releasing with attempts := n })
    ((s 4).inReset = false ∧ (s 4).time.link = .running ∧ (someTurn .release .listening).work = .release ∧
      ((s 4).record 1).state = .releasing ∧ ((s 4).record 1).generation = 1 ∧ 4 ≤ ((s 4).record 1).attempts) ∧
    ((s 3).record 1).attempts < 4 ∧ classifyUplink (anAck 0) = .ack (byteOf ((1 : Handle).val + 1)) 0 ⟨9, 2, 0⟩ 2 ∧
    classifyUplink .undecodable = .damaged := by decide

theorem witness_OtherFrameOnReleasingRecord :
    let s := inTurn (someTurn (.mode .blank) .listening) (withRecord { someRecord .releasing with attempts := 4 })
    s.inReset = false ∧ s.time.link = .running ∧ (someTurn (.mode .blank) .listening).work ≠ .release ∧
    (s.record 1).state = .releasing ∧ (s.record 1).generation = (someTurn (.mode .blank) .listening).generation := by decide

/-- A claim on a record that is FREE, and one on a record of another generation. -/
theorem witness_VoidCloseChangesNoRecord :
    (inTurn (someTurn .poll .listening) running).inReset = false ∧
    ((inTurn (someTurn .poll .listening) running).record 1).state = .free ∧
    ((inTurn (someTurn .poll .listening) (withRecord { someRecord .bound with generation := 2 })).record 1).generation ≠
      (someTurn .poll .listening).generation ∧ running.census.state = .idle ∧
    (let c : Census := { Census.idle with state := .counting, remaining := 2 };
      c.state = .counting ∧ 1 < c.remaining ∧ ({ c with remaining := 1 }).remaining ≤ 1) := by decide

/-- The close that ends a census: a GOOD reply with two corrected errors, at a GOOD count that saturates. -/
theorem test_census_latched :
    let c : Census := { Census.idle with state := .counting, remaining := 1, running := ⟨65535, 3, 4, 65534⟩ }
    (after (.uplinkFrame (anAck 0)) (inTurn (someTurn .poll .listening) { withEntry with census := c })).map
      (fun t => (t.census, t.flag .censusDone)) =
      some (⟨.idle, 0, ⟨65535, 3, 4, 65535⟩, ⟨65535, 3, 4, 65535⟩⟩, true) := by decide

/-- The turn that fills a quality window, and the one before it. -/
theorem witness_QualityWindowEnds :
    let s (n : Nat) := inTurn (someTurn .poll .listening) (withRecord { someRecord .bound with windowTurns := n })
    ((s 15).inReset = false ∧ (s 15).time.link = .running ∧ ((s 15).record 1).state = .bound ∧
      ((s 15).record 1).generation = 1 ∧ ((s 15).record 1).policy = .automatic ∧
      (s 15).limits.windowLength ≤ ((s 15).record 1).windowTurns + 1 ∧ ((s 15).record 1).windowBad = 0 ∧
      2 ≤ (s 15).limits.errorThreshold) ∧
    ((s 14).record 1).windowTurns + 1 < (s 14).limits.windowLength ∧ classifyUplink .undecodable = .damaged ∧
    classifyUplink (anAck 0) = .ack (byteOf ((1 : Handle).val + 1)) 0 ⟨9, 2, 0⟩ 2 ∧
    (s 15).record 1 = { someRecord .bound with windowTurns := 15 } ∧
    ({ QualityLimits.default with errorThreshold := 1 }).errorThreshold < 2 ∧
    (let r : Record := { someRecord .lost with policy := .manual };
      ((inTurn (someTurn .poll .listening) (withRecord r)).record 1).state = .lost ∧ r.policy = .manual) := by decide

/-- A window that a NONE fills raises the level under AUTOMATIC, and keeps it under MANUAL. -/
theorem test_window_end :
    let s (p : LevelPolicy) := inTurn (someTurn .poll .listening)
      (withRecord { someRecord .bound with windowTurns := 15, windowBad := 2, policy := p })
    ((after .plannedClose (s .automatic)).map (fun t => (t.record 1).level),
      (after .plannedClose (s .manual)).map (fun t => (t.record 1).level)) = (some 1, some 0) := by decide

/-- A JOIN from a serial that nothing holds, from one in the join queue, and frames that are discarded. -/
theorem witness_JoinFromUnknownSerial :
    let e : JoinEntry := ⟨9, 7, 255, 0, 2⟩
    ((inJoinWindow withEntry).inReset = false ∧ (inJoinWindow withEntry).context = some (.joinWindow 1) ∧
      classifyUplink (aJoin 9) = .join 0 9 7 2 ∧
      ∀ h, ((inJoinWindow withEntry).record h).state ≠ .free → ((inJoinWindow withEntry).record h).serial ≠ 9) ∧
    (e ∈ [e] ∧ e.serial = 9) ∧ (List.replicate 8 e).length = 8 ∧ classifyUplink (aJoin 0) = .join 0 0 7 2 ∧
    classifyUplink (anAck 0) = .ack 2 0 ⟨9, 2, 0⟩ 2 := by decide

theorem witness_JoinFromKnownSerial :
    (inJoinWindow withEntry).inReset = false ∧ (inJoinWindow withEntry).context = some (.joinWindow 1) ∧
    classifyUplink (aJoin 5) = .join 0 (withEntry.record 1).serial 7 2 ∧ (withEntry.record 1).state = .bound ∧
    ((withRecord (someRecord .offered)).record 1).state = .offered ∧
    ((withRecord (someRecord .releasing)).record 1).state = .releasing ∧
    ((withRecord { someRecord .lost with target := some 7 }).record 1).target = some 7 := by decide

theorem witness_TransactionsRoundTrip :
    (Instr.stageField [3, 1, 0x41]).wf = true ∧ encodeTransaction (.stageField [3, 1, 0x41]) = some [0x41, 3, 1, 0x41] := by
  decide

end Sys2Proof.Tests
end

section
/-! PROOFS. READ CHANGED and TAKE PRESSES (R23, R170): what each command answers in each of its cases, and O22. -/

namespace Sys2Proof.Machine

variable (s : State)

/-! ## The changed set -/

/-- READ CHANGED finds a handle exactly if it is in the changed set and no lower one is (R23). -/
theorem lowestChanged_eq_some {h : Handle} :
    s.lowestChanged = some h ↔ s.isChanged h = true ∧ ∀ k, k < h → s.isChanged k = false := by
  unfold State.lowestChanged
  rw [List.find?_eq_some_iff_getElem]
  refine and_congr_right fun _ => ⟨?_, fun below => ?_⟩
  · rintro ⟨i, hi, rfl, below⟩ k hk
    have hki : k.val < i := by simpa [Fin.lt_def] using hk
    simpa using below k.val hki
  · refine ⟨h.val, by simp, by simp, fun j hj => ?_⟩
    simpa using below ⟨j, hj.trans h.isLt⟩ hj

/-- The search for the lowest changed handle reads the changed set alone. -/
@[simp] theorem lowestChanged_endTransaction (b : List Byte) :
    (s.endTransaction b).lowestChanged = s.lowestChanged := rfl

/-! ## The answers of READ CHANGED -/

section
variable {s} {status : Byte} (hs : s.selected status)
include hs

/-- READ CHANGED on an empty changed set (R23). -/
theorem exec_readChanged_empty (none_changed : s.lowestChanged = none) :
    exec (.readChanged []) s = .next (s.answered status [] .empty []) := by
  change execReadChanged [] s = _
  rw [execReadChanged, command0_selected s hs, lowestChanged_endTransaction, none_changed]
  rfl

/-- READ CHANGED takes the lowest handle out of the changed set (R23). -/
theorem exec_readChanged_lowest {h : Handle} (lowest : s.lowestChanged = some h) :
    exec (.readChanged []) s
      = .next ((s.unmarkChanged h).answered status [] .ok [byteOf h.val, byteOf (s.record h).state.code]) := by
  change execReadChanged [] s = _
  rw [execReadChanged, command0_selected s hs, lowestChanged_endTransaction, lowest]
  rfl

/-! ## The answers of TAKE PRESSES -/

/-- TAKE PRESSES with a parameter that is no handle (R170). -/
theorem exec_takePresses_value {b : Byte} (no_handle : handle? b = none) :
    exec (.takePresses [b]) s = .next (s.answered status [b] .value []) := by
  change execTakePresses [b] s = _
  simp only [execTakePresses, command_selected s hs, no_handle]
  rfl

/-- TAKE PRESSES on a FREE record (R170). -/
theorem exec_takePresses_noRecord {h : Handle} (free : (s.record h).state = .free) :
    exec (.takePresses [byteOf h.val]) s = .next (s.answered status [byteOf h.val] .noRecord []) := by
  change execTakePresses [byteOf h.val] s = _
  simp only [execTakePresses, command_selected s hs, handle?_byteOf, record_endTransaction, free, reduceIte]
  rfl

/-- TAKE PRESSES returns the press accumulator and clears it (R170). -/
theorem exec_takePresses_taken {h : Handle} (occupied : (s.record h).state ≠ .free) :
    exec (.takePresses [byteOf h.val]) s
      = .next ((s.setRecord h { s.record h with presses := 0 }).answered status [byteOf h.val] .ok
          [byteOf (s.record h).presses]) := by
  change execTakePresses [byteOf h.val] s = _
  simp only [execTakePresses, command_selected s hs, handle?_byteOf, record_endTransaction, occupied, reduceIte]
  rfl

end

/-- Settles O22: the cases of READ CHANGED by whether the changed set has a lowest handle, those of TAKE PRESSES by
whether the parameter is a handle and its record is FREE. -/
theorem changedAndPressesTaken : Obligations.ChangedAndPressesTaken := by
  intro s status hs
  refine ⟨⟨fun unchanged => ?_, fun h changed below => ?_⟩, fun b hb => ?_,
    fun h => ⟨fun free => ?_, fun occupied => ?_⟩⟩
  · exact exec_readChanged_empty hs ((lowestChanged_none s).mpr unchanged)
  · exact exec_readChanged_lowest hs ((lowestChanged_eq_some s).mpr ⟨changed, below⟩)
  · exact exec_takePresses_value hs (handle?_none hb)
  · exact exec_takePresses_noRecord hs free
  · exact exec_takePresses_taken hs occupied

end Sys2Proof.Machine
end

section
/-! PROOFS. SET LINK TIMING and START LINK (R35, R40): what each command answers in each of its cases, with O10 and
O11. -/

namespace Sys2Proof.Machine

/-! ## The parameters of SET LINK TIMING -/

/-- The ranges of T, W and the admission-open flag (R40). -/
def LinkTiming.InRange (turnLength replyWindow : Nat) (admission : Byte) : Prop :=
  64 ≤ turnLength ∧ turnLength ≤ 1024 ∧ turnLength % 4 = 0 ∧ 8 ≤ replyWindow ∧ replyWindow ≤ turnLength / 4 ∧
    (admission = 0 ∨ admission = 1)

theorem flag?_eq_some {b : Byte} (h : b = 0 ∨ b = 1) : flag? b = some (b == 1) := by
  obtain rfl | rfl := h <;> rfl

theorem flag?_eq_none {b : Byte} (h : ¬(b = 0 ∨ b = 1)) : flag? b = none := by
  obtain ⟨h0, h1⟩ := not_or.mp h
  rw [flag?, if_neg h0, if_neg h1]

theorem linkTiming?_inRange {t w : Nat} {a : Byte} (h : LinkTiming.InRange t w a) :
    linkTiming? t w (flag? a) = some { turnLength := t, replyWindow := w, admissionOpen := a == 1 } := by
  obtain ⟨tLow, tHigh, tStep, wLow, wHigh, open01⟩ := h
  rw [linkTiming?, if_pos ⟨tLow, tHigh, tStep, wLow, wHigh⟩, flag?_eq_some open01, Option.map_some]

theorem linkTiming?_outOfRange {t w : Nat} {a : Byte} (h : ¬LinkTiming.InRange t w a) :
    linkTiming? t w (flag? a) = none := by
  rw [linkTiming?]
  split
  next ranges =>
    obtain ⟨tLow, tHigh, tStep, wLow, wHigh⟩ := ranges
    have notFlag : ¬(a = 0 ∨ a = 1) := fun open01 => h ⟨tLow, tHigh, tStep, wLow, wHigh, open01⟩
    rw [flag?_eq_none notFlag, Option.map_none]
  next => rfl

/-- In STOPPED and STARTING a link timing is in use at once (R40). -/
theorem TimeBase.setTiming_at_once {t : TimeBase} (timing : LinkTiming)
    (h : t.link = .stopped ∨ t.link = .starting) : t.setTiming timing = { t with timing := timing } := by
  obtain link | link := h <;> simp only [TimeBase.setTiming, link]

/-- In RUNNING and STOPPING a link timing becomes the pending one (R40). -/
theorem TimeBase.setTiming_pending {t : TimeBase} (timing : LinkTiming)
    (h : t.link = .running ∨ t.link = .stopping) : t.setTiming timing = { t with pendingTiming := some timing } := by
  obtain link | link := h <;> simp only [TimeBase.setTiming, link]

section
variable {s : State} {status : Byte} (hs : s.selected status)
include hs

/-! ## The answers of SET LINK TIMING -/

/-- SET LINK TIMING with a parameter out of range (R40). -/
theorem exec_setLinkTiming_value {t1 t0 w1 w0 a : Byte}
    (outOfRange : ¬LinkTiming.InRange (word16 t1 t0) (word16 w1 w0) a) :
    exec (.setLinkTiming [t1, t0, w1, w0, a]) s = .next (s.answered status [t1, t0, w1, w0, a] .value []) := by
  change execSetLinkTiming [t1, t0, w1, w0, a] s = _
  simp only [execSetLinkTiming, command_selected s hs, linkTiming?_outOfRange outOfRange]
  rfl

/-- SET LINK TIMING with its parameters in range gives the triple to the Time Base (R40). -/
theorem exec_setLinkTiming_set {t1 t0 w1 w0 a : Byte}
    (inRange : LinkTiming.InRange (word16 t1 t0) (word16 w1 w0) a) :
    exec (.setLinkTiming [t1, t0, w1, w0, a]) s
      = .next ({ s with time := s.time.setTiming ⟨word16 t1 t0, word16 w1 w0, a == 1⟩ }.answered status
          [t1, t0, w1, w0, a] .ok []) := by
  change execSetLinkTiming [t1, t0, w1, w0, a] s = _
  simp only [execSetLinkTiming, command_selected s hs, linkTiming?_inRange inRange]
  rfl

/-! ## The answers of START LINK -/

/-- START LINK in STOPPED begins the settle countdown (R35). -/
theorem exec_startLink_stopped (link : s.time.link = .stopped) :
    exec (.startLink []) s
      = .next ({ s with time := { s.time with link := .starting, receiverEnable := true, settle := some 0 } }.answered
          status [] .ok []) := by
  change execStartLink [] s = _
  simp only [execStartLink, command0_selected s hs, endTransaction_time, link]
  rfl

/-- START LINK in STARTING and RUNNING changes nothing (R35). -/
theorem exec_startLink_started (h : s.time.link = .starting ∨ s.time.link = .running) :
    exec (.startLink []) s = .next (s.answered status [] .ok []) := by
  change execStartLink [] s = _
  obtain link | link := h <;> simp only [execStartLink, command0_selected s hs, endTransaction_time, link] <;> rfl

/-- START LINK in STOPPING is refused (R35). -/
theorem exec_startLink_stopping (link : s.time.link = .stopping) :
    exec (.startLink []) s = .next (s.answered status [] .state []) := by
  change execStartLink [] s = _
  simp only [execStartLink, command0_selected s hs, endTransaction_time, link]
  rfl

end

/-- Settles O10: the cases by whether the parameters are in range and, if they are, by where the Time Base puts the
triple. -/
theorem setLinkTimingByState : Obligations.SetLinkTimingByState := by
  intro s status t1 t0 w1 w0 a hs t w legal triple
  refine ⟨fun illegal => ?_, fun inRange link => ?_, fun inRange link => ?_⟩
  · exact exec_setLinkTiming_value hs illegal
  · rw [exec_setLinkTiming_set hs inRange, TimeBase.setTiming_at_once _ link]
    rfl
  · rw [exec_setLinkTiming_set hs inRange, TimeBase.setTiming_pending _ link]
    rfl

/-- Settles O11: the four states of the link engine. -/
theorem startLinkByState : Obligations.StartLinkByState := fun _ _ hs =>
  ⟨exec_startLink_stopped hs, exec_startLink_started hs, exec_startLink_stopping hs⟩

end Sys2Proof.Machine
end

section
/-! PROOFS. The wake superframes of a record (R48, R49), and O34. -/

namespace Sys2Proof.Machine

/-- A record that is LOST or confirmed DORMANT has effective exponent 6 (R48). -/
theorem Record.effectiveExponent_slow {r : Record} (h : r.state = .lost ∨ r.modeConfirmed = .dormant) :
    r.effectiveExponent = 6 := by
  rw [Record.effectiveExponent, exponentOf, if_pos h]

/-- Any other record has its period as effective exponent (R48). -/
theorem Record.effectiveExponent_period {r : Record} (notLost : r.state ≠ .lost)
    (notDormant : r.modeConfirmed ≠ .dormant) : r.effectiveExponent = r.period := by
  rw [Record.effectiveExponent, exponentOf, if_neg (not_or.mpr ⟨notLost, notDormant⟩)]

/-- A record is awake in the superframes that its handle names modulo its cycle (R49). -/
theorem awake_iff (e : Exponent) (h : Handle) (n : BitVec 16) :
    awake e h n = true ↔ n.toNat % 2 ^ e.val = h.val % 2 ^ e.val := by
  rw [awake, beq_iff_eq]

/-- Settles O34: the two branches of the effective exponent, and the test that a turn start makes. -/
theorem wakeRule : Obligations.WakeRule := fun _ h n =>
  ⟨Record.effectiveExponent_slow, Record.effectiveExponent_period, fun e => awake_iff e h n⟩

end Sys2Proof.Machine
end

section
/-! PROOFS. READ JOIN, DROP JOIN and ADMIT (R11, R44, R105 to R107): what each command answers in each of its cases,
with O15 to O17. -/

namespace Sys2Proof.Machine

/-! ## The answers of READ JOIN and DROP JOIN -/

section
variable {s : State} {status : Byte} (hs : s.selected status)
include hs

/-- READ JOIN on an empty join queue (R105). -/
theorem exec_readJoin_empty (empty : s.joinQueue = []) :
    exec (.readJoin []) s = .next (s.answered status [] .empty []) := by
  change execReadJoin [] s = _
  simp only [execReadJoin, command0_selected s hs, endTransaction_joinQueue, empty]
  rfl

/-- READ JOIN returns the head of the join queue (R105). -/
theorem exec_readJoin_head {e : JoinEntry} {rest : List JoinEntry} (queue : s.joinQueue = e :: rest) :
    exec (.readJoin []) s = .next (s.answered status [] .ok e.bytes) := by
  change execReadJoin [] s = _
  simp only [execReadJoin, command0_selected s hs, endTransaction_joinQueue, queue]
  rfl

/-- DROP JOIN on an empty join queue (R105). -/
theorem exec_dropJoin_empty (empty : s.joinQueue = []) :
    exec (.dropJoin []) s = .next (s.answered status [] .empty []) := by
  change execDropJoin [] s = _
  simp only [execDropJoin, command0_selected s hs, endTransaction_joinQueue, empty]
  rfl

/-- DROP JOIN removes the head of the join queue (R105). -/
theorem exec_dropJoin_head {e : JoinEntry} {rest : List JoinEntry} (queue : s.joinQueue = e :: rest) :
    exec (.dropJoin []) s = .next ({ s with joinQueue := rest }.answered status [] .ok []) := by
  change execDropJoin [] s = _
  simp only [execDropJoin, command0_selected s hs, endTransaction_joinQueue, queue]
  rfl

end

/-- Settles O15: the two commands on an empty join queue and on one with a head. -/
theorem joinQueueHeadCommands : Obligations.JoinQueueHeadCommands := fun _ _ hs =>
  ⟨fun empty => ⟨exec_readJoin_empty hs empty, exec_dropJoin_empty hs empty⟩,
    fun _ _ queue => ⟨exec_readJoin_head hs queue, exec_dropJoin_head hs queue⟩⟩

/-! ## The parameters of ADMIT (R106, check 1) -/

/-- Appending a byte to a word shifts the word left by one byte. -/
theorem toNat_append_byte {w : Nat} (x : BitVec w) (b : Byte) : (x ++ b).toNat = 256 * x.toNat + b.toNat := by
  rw [BitVec.toNat_append, ← Nat.shiftLeft_add_eq_or_of_lt b.isLt, Nat.shiftLeft_eq, Nat.mul_comm]

/-- A 32-bit parameter is its four bytes in their order (R187). -/
theorem word32_eq_append (a b c d : Byte) : word32 a b c d = a ++ b ++ c ++ d := by
  apply BitVec.eq_of_toNat_eq
  rw [word32, BitVec.toNat_ofNat, toNat_append_byte, toNat_append_byte, toNat_append_byte]
  omega

theorem validSerial_iff {serial : BitVec 32} : validSerial serial = true ↔ serial ≠ 0 ∧ serial ≠ 0xFFFFFFFF := by
  simp only [validSerial, Bool.and_eq_true, bne_iff_ne]

/-- A byte below `n` is read as a number below `n`. -/
theorem below?_some {n : Nat} {b : Byte} (h : b.toNat < n) : below? n b = some ⟨b.toNat, h⟩ := dif_pos h

/-- The bytes 189 to 254 request no seat (R106). -/
theorem seatRequest?_none {b : Byte} (h : 189 ≤ b.toNat ∧ b.toNat ≤ 254) : seatRequest? b = none := by
  have notAny : b ≠ 0xFF := by bv_omega
  rw [seatRequest?, if_neg notAny, below?_none h.1, Option.map_none]

/-- Any other byte requests a seat (R106). -/
theorem seatRequest?_some {b : Byte} (h : ¬(189 ≤ b.toNat ∧ b.toNat ≤ 254)) :
    ∃ request, seatRequest? b = some request := by
  by_cases isAny : b = 0xFF
  · exact ⟨.any, if_pos isAny⟩
  · have isSeat : b.toNat < 189 := by bv_omega
    exact ⟨.named ⟨b.toNat, isSeat⟩, by rw [seatRequest?, if_neg isAny, below?_some isSeat, Option.map_some]⟩

/-- A parameter of ADMIT is out of range (R106, check 1). -/
def AdmitOutOfRange (serial : BitVec 32) (period seat level : Byte) : Prop :=
  serial = 0 ∨ serial = 0xFFFFFFFF ∨ 6 < period.toNat ∨ 3 < level.toNat ∨ (189 ≤ seat.toNat ∧ seat.toNat ≤ 254)

/-- With its parameters in range, ADMIT reads a valid serial, an exponent, a seat request and a level. -/
theorem admitParameters_inRange {serial : BitVec 32} {period seat level : Byte}
    (inRange : ¬AdmitOutOfRange serial period seat level) :
    validSerial serial = true ∧ (∃ p, exponent? period = some p) ∧ (∃ request, seatRequest? seat = some request) ∧
      ∃ l, level? level = some l := by
  simp only [AdmitOutOfRange, not_or] at inRange
  obtain ⟨notZero, notOnes, periodLow, levelLow, seatLow⟩ := inRange
  exact ⟨validSerial_iff.mpr ⟨notZero, notOnes⟩, ⟨_, below?_some (by omega)⟩, seatRequest?_some seatLow,
    ⟨_, below?_some (by omega)⟩⟩

/-! ## The choice of a record and a seat (R44, R106, R107) -/

section
variable (s : State)

/-- ADMIT finds a record exactly if it is FREE and no lower one is (R107). -/
theorem lowestFreeRecord_eq_some {h : Handle} :
    s.lowestFreeRecord = some h ↔ (s.record h).state = .free ∧ ∀ k, k < h → (s.record k).state ≠ .free := by
  rw [State.lowestFreeRecord, ← Fin.find?_eq_find?_finRange, Fin.find?_eq_some_iff]
  simp only [decide_eq_true_eq, decide_eq_false_iff_not, ne_eq]

/-- ADMIT finds no record exactly if none is FREE (R106, check 3). -/
theorem lowestFreeRecord_none : s.lowestFreeRecord = none ↔ ∀ h, (s.record h).state ≠ .free := by
  simp [State.lowestFreeRecord, List.find?_eq_none]

/-- A seat is found for any seat exactly if it is FREE and no lower one is (R44). -/
theorem lowestFreeSeat_eq_some {n : SeatNo} :
    s.lowestFreeSeat = some n ↔ s.seatState n = .free ∧ ∀ m, m < n → s.seatState m ≠ .free := by
  rw [State.lowestFreeSeat, ← Fin.find?_eq_find?_finRange, Fin.find?_eq_some_iff]
  simp only [decide_eq_true_eq, decide_eq_false_iff_not, ne_eq]

/-- A claim of any seat with no seat FREE (R44). -/
theorem claimSeat_any_none (noneFree : ∀ n, s.seatState n ≠ .free) : s.claimSeat .any = .error .noSeat := by
  rw [State.claimSeat, (lowestFreeSeat_none s).mpr noneFree]

/-- A claim of any seat is given the lowest FREE seat (R44). -/
theorem claimSeat_any_lowest {n : SeatNo} (free : s.seatState n = .free) (below : ∀ m, m < n → s.seatState m ≠ .free) :
    s.claimSeat .any = .ok n := by
  rw [State.claimSeat, (lowestFreeSeat_eq_some s).mpr ⟨free, below⟩]

/-- A claim of a seat that is not FREE (R44). -/
theorem claimSeat_named_taken {n : SeatNo} (taken : s.seatState n ≠ .free) :
    s.claimSeat (.named n) = .error .seatTaken := if_neg taken

/-- A claim of a FREE seat is given it (R44). -/
theorem claimSeat_named_free {n : SeatNo} (free : s.seatState n = .free) : s.claimSeat (.named n) = .ok n :=
  if_pos free

variable {s} {serial : BitVec 32} {request : SeatRequest}

/-- ADMIT of a serial that a record carries (R106, check 2). -/
theorem admitChoice_duplicate (carried : ∃ h, (s.record h).state ≠ .free ∧ (s.record h).serial = serial) :
    s.admitChoice serial request = .error .duplicate := by
  have found : (s.findSerial serial).isSome := by
    rw [Option.isSome_iff_ne_none, ne_eq, findSerial_none]
    obtain ⟨h, occupied, same⟩ := carried
    exact fun unknown => unknown h occupied same
  rw [State.admitChoice, if_pos found]

variable (unknown : ¬∃ h, (s.record h).state ≠ .free ∧ (s.record h).serial = serial)
include unknown

/-- ADMIT of a serial that no record carries goes on to the search for a record. -/
theorem not_findSerial_isSome : ¬(s.findSerial serial).isSome := by
  have unfound : s.findSerial serial = none :=
    (findSerial_none s).mpr fun h occupied same => unknown ⟨h, occupied, same⟩
  rw [unfound, Option.isSome_none]
  exact Bool.false_ne_true

/-- ADMIT with no record FREE (R106, check 3). -/
theorem admitChoice_tableFull (full : ∀ h, (s.record h).state ≠ .free) :
    s.admitChoice serial request = .error .tableFull := by
  rw [State.admitChoice, if_neg (not_findSerial_isSome unknown), (lowestFreeRecord_none s).mpr full]

/-- ADMIT with a record FREE is refused as its claim of a seat is (R106, checks 4 and 5). -/
theorem admitChoice_seatRefused {result : ResultCode} (notFull : ¬∀ h, (s.record h).state ≠ .free)
    (refused : s.claimSeat request = .error result) : s.admitChoice serial request = .error result := by
  obtain ⟨h, lowest⟩ := Option.ne_none_iff_exists'.mp (mt (lowestFreeRecord_none s).mp notFull)
  rw [State.admitChoice, if_neg (not_findSerial_isSome unknown), lowest]
  simp only [refused]

/-- ADMIT that passes its checks chooses the lowest FREE record and the seat its claim is given (R107). -/
theorem admitChoice_ok {h : Handle} {n : SeatNo} (free : (s.record h).state = .free)
    (below : ∀ k, k < h → (s.record k).state ≠ .free) (given : s.claimSeat request = .ok n) :
    s.admitChoice serial request = .ok (h, n) := by
  rw [State.admitChoice, if_neg (not_findSerial_isSome unknown), (lowestFreeRecord_eq_some s).mpr ⟨free, below⟩]
  simp only [given]

end

/-! ## The answers of ADMIT -/

/-- ADMIT with a parameter out of range (R106, check 1). -/
theorem admitWith_value (s : State) {serial : BitVec 32} {period seat level : Byte}
    (outOfRange : AdmitOutOfRange serial period seat level) :
    s.admitWith serial (exponent? period) (seatRequest? seat) (level? level) = s.refuse .value := by
  have unread : validSerial serial ≠ true ∨ exponent? period = none ∨ level? level = none ∨
      seatRequest? seat = none := by
    obtain zero | ones | periodHigh | levelHigh | noSeat := outOfRange
    · exact .inl fun valid => (validSerial_iff.mp valid).1 zero
    · exact .inl fun valid => (validSerial_iff.mp valid).2 ones
    · exact .inr (.inl (exponent?_none periodHigh))
    · exact .inr (.inr (.inl (level?_none levelHigh)))
    · exact .inr (.inr (.inr (seatRequest?_none noSeat)))
  unfold State.admitWith
  split
  next valid period level seat => simp [valid, period, level, seat] at unread
  next => rfl

/-- The choice of a record and a seat reads the table and the Seat Map alone. -/
@[simp] theorem admitChoice_endTransaction (s : State) (bytes : List Byte) (serial : BitVec 32) (request : SeatRequest) :
    (s.endTransaction bytes).admitChoice serial request = s.admitChoice serial request := rfl

section
variable {s : State} {status a b c d period seat level : Byte} (hs : s.selected status)
include hs

/-- ADMIT acts on its parameters as they are read. -/
theorem exec_admitLabel :
    exec (.admitLabel [a, b, c, d, period, seat, level]) s
      = .next ((s.endTransaction (status :: List.replicate [a, b, c, d, period, seat, level].length 0)).admitWith
          (a ++ b ++ c ++ d) (exponent? period) (seatRequest? seat) (level? level)) := by
  change execAdmit [a, b, c, d, period, seat, level] s = _
  rw [execAdmit, command_selected s hs, ← word32_eq_append]

/-- ADMIT with a parameter out of range is refused with VALUE (R106, check 1). -/
theorem exec_admitLabel_value (outOfRange : AdmitOutOfRange (a ++ b ++ c ++ d) period seat level) :
    exec (.admitLabel [a, b, c, d, period, seat, level]) s
      = .next (s.answered status [a, b, c, d, period, seat, level] .value []) := by
  rw [exec_admitLabel hs, admitWith_value _ outOfRange]
  rfl

variable {p : Exponent} {request : SeatRequest} {l : Level} (valid : validSerial (a ++ b ++ c ++ d) = true)
  (readPeriod : exponent? period = some p) (readSeat : seatRequest? seat = some request)
  (readLevel : level? level = some l)
include valid readPeriod readSeat readLevel

/-- ADMIT with its parameters in range is refused as its choice is (R106). -/
theorem exec_admitLabel_refused {result : ResultCode}
    (choice : s.admitChoice (a ++ b ++ c ++ d) request = .error result) :
    exec (.admitLabel [a, b, c, d, period, seat, level]) s
      = .next (s.answered status [a, b, c, d, period, seat, level] result []) := by
  rw [exec_admitLabel hs]
  simp only [State.admitWith, valid, readPeriod, readSeat, readLevel, admitChoice_endTransaction, choice]
  rfl

/-- ADMIT that passes its checks takes up its choice and returns the handle (R107). -/
theorem exec_admitLabel_taken {h : Handle} {n : SeatNo} (choice : s.admitChoice (a ++ b ++ c ++ d) request = .ok (h, n)) :
    exec (.admitLabel [a, b, c, d, period, seat, level]) s
      = .next ((s.takeUp h (a ++ b ++ c ++ d) p n l).answered status [a, b, c, d, period, seat, level] .ok
          [byteOf h.val]) := by
  rw [exec_admitLabel hs]
  simp only [State.admitWith, valid, readPeriod, readSeat, readLevel, admitChoice_endTransaction, choice]
  rfl

end

/-- Settles O16: a parameter out of range, then with all in range the choice of a record and a seat as it is refused. -/
theorem admitChecksInOrder : Obligations.AdmitChecksInOrder := by
  intro s status a b c d period seat level hs serial refused bad carried full
  have refused_of_choice {request : SeatRequest} {result : ResultCode} (inRange : ¬bad)
      (readSeat : seatRequest? seat = some request) (choice : s.admitChoice serial request = .error result) :
      refused result := by
    obtain ⟨valid, ⟨p, readPeriod⟩, -, l, readLevel⟩ := admitParameters_inRange inRange
    exact exec_admitLabel_refused hs valid readPeriod readSeat readLevel choice
  refine ⟨fun outOfRange => ?value, fun inRange known => ?duplicate, fun inRange unknown isFull => ?tableFull,
    fun inRange unknown notFull any noneFree => ?noSeat, fun inRange unknown notFull n isSeat taken => ?seatTaken⟩
  case value => exact exec_admitLabel_value hs outOfRange
  case duplicate =>
    obtain ⟨-, -, ⟨request, readSeat⟩, -⟩ := admitParameters_inRange inRange
    exact refused_of_choice inRange readSeat (admitChoice_duplicate known)
  case tableFull =>
    obtain ⟨-, -, ⟨request, readSeat⟩, -⟩ := admitParameters_inRange inRange
    exact refused_of_choice inRange readSeat (admitChoice_tableFull unknown isFull)
  case noSeat =>
    have readSeat : seatRequest? seat = some .any := any ▸ seatRequest?_any
    exact refused_of_choice inRange readSeat (admitChoice_seatRefused unknown notFull (claimSeat_any_none s noneFree))
  case seatTaken =>
    have seatByte : byteOf n.val = seat := by simp [byteOf, isSeat]
    have readSeat : seatRequest? seat = some (.named n) := seatByte ▸ seatRequest?_byteOf n
    exact refused_of_choice inRange readSeat (admitChoice_seatRefused unknown notFull (claimSeat_named_taken s taken))

/-- The seat request that an ADMIT passing its checks makes, and the seat its claim is given (R44, R107). -/
theorem claimSeat_of_request {s : State} {seat : Byte} {n : SeatNo} (free : s.seatState n = .free)
    (requested : seat = byteOf n.val ∨ (seat = 0xFF ∧ ∀ m, m < n → s.seatState m ≠ .free)) :
    ∃ request, seatRequest? seat = some request ∧ s.claimSeat request = .ok n := by
  obtain rfl | ⟨rfl, below⟩ := requested
  · exact ⟨.named n, seatRequest?_byteOf n, claimSeat_named_free s free⟩
  · exact ⟨.any, seatRequest?_any, claimSeat_any_lowest s free below⟩

/-- Settles O17: the choice of an ADMIT that passes its checks, taken up. -/
theorem admitTakesLowestRecord : Obligations.AdmitTakesLowestRecord := by
  intro s status a b c d seat period level h n hs serial notZero notOnes unknown free below seatFree requested
  obtain ⟨request, readSeat, given⟩ := claimSeat_of_request seatFree requested
  have unknownSerial : ¬∃ k, (s.record k).state ≠ .free ∧ (s.record k).serial = serial :=
    fun ⟨k, occupied, same⟩ => unknown k occupied same
  rw [exec_admitLabel_taken hs (validSerial_iff.mpr ⟨notZero, notOnes⟩) (exponent?_byteOf period) readSeat
    (level?_byteOf level) (admitChoice_ok unknownSerial free below given)]
  rfl

end Sys2Proof.Machine
end

section
/-! PROOFS. SET QUALITY LIMITS, START CENSUS and SET LEVEL (R129, R142, R144): what each command answers in each of its
cases, with O13 and O14. -/

namespace Sys2Proof.Machine

/-! ## The parameters of SET QUALITY LIMITS and SET LEVEL -/

/-- The quality limits that the seven parameters of SET QUALITY LIMITS carry (R142). -/
def QualityLimits.ofBytes (miss hunt window raise errors clean supply : Byte) : QualityLimits where
  missLimit := miss.toNat
  huntLength := hunt.toNat
  windowLength := window.toNat
  raiseThreshold := raise.toNat
  errorThreshold := errors.toNat
  cleanToLower := clean.toNat
  supplyThreshold := supply.toNat

/-- Seven parameters carry limits in range exactly if each lies between its bounds, the raise threshold at most the
window length (R142). -/
theorem QualityLimits.inRange_ofBytes {m h w r e c p : Byte} :
    (ofBytes m h w r e c p).inRange ↔
      2 ≤ m.toNat ∧ m.toNat ≤ 15 ∧ 1 ≤ h.toNat ∧ h.toNat ≤ 8 ∧ 4 ≤ w.toNat ∧ w.toNat ≤ 64 ∧
        1 ≤ r.toNat ∧ r.toNat ≤ w.toNat ∧ e.toNat ≤ 63 ∧ 1 ≤ c.toNat ∧ c.toNat ≤ 15 ∧ p.toNat ≤ 15 := by
  simp only [inRange, ofBytes, and_assoc]

/-- A byte above 1 is no level policy (R129). -/
theorem policy?_none {b : Byte} (h : 2 ≤ b.toNat) : policy? b = none := by
  have notAutomatic : b ≠ 0 := by rintro rfl; exact absurd h (by decide)
  have notManual : b ≠ 1 := by rintro rfl; exact absurd h (by decide)
  rw [policy?, if_neg notAutomatic, if_neg notManual]

/-- The bytes 0 and 1 are the level policies (R129). -/
theorem policy?_some {b : Byte} (h : b = 0 ∨ b = 1) : ∃ policy, policy? b = some policy := by
  obtain rfl | rfl := h
  · exact ⟨.automatic, rfl⟩
  · exact ⟨.manual, rfl⟩

section
variable {s : State} {status : Byte} (hs : s.selected status)
include hs

/-! ## The answers of SET QUALITY LIMITS -/

/-- SET QUALITY LIMITS with every limit in range sets all seven (R142). -/
theorem exec_setQualityLimits_set {m h w r e c p : Byte} (inRange : (QualityLimits.ofBytes m h w r e c p).inRange) :
    exec (.setQualityLimits [m, h, w, r, e, c, p]) s
      = .next ({ s with limits := .ofBytes m h w r e c p }.answered status [m, h, w, r, e, c, p] .ok []) := by
  change execSetQualityLimits [m, h, w, r, e, c, p] s = _
  rw [execSetQualityLimits, command_selected s hs]
  exact congrArg Host.Outcome.next (if_pos inRange)

/-- SET QUALITY LIMITS with a limit out of range sets none (R142). -/
theorem exec_setQualityLimits_value {m h w r e c p : Byte}
    (outOfRange : ¬(QualityLimits.ofBytes m h w r e c p).inRange) :
    exec (.setQualityLimits [m, h, w, r, e, c, p]) s
      = .next (s.answered status [m, h, w, r, e, c, p] .value []) := by
  change execSetQualityLimits [m, h, w, r, e, c, p] s = _
  rw [execSetQualityLimits, command_selected s hs]
  exact congrArg Host.Outcome.next (if_neg outOfRange)

/-! ## The answers of START CENSUS -/

/-- START CENSUS over a period of 0 is refused (R144). -/
theorem exec_startCensus_value {hi lo : Byte} (zero : word16 hi lo = 0) :
    exec (.startCensus [hi, lo]) s = .next (s.answered status [hi, lo] .value []) := by
  change execStartCensus [hi, lo] s = _
  simp only [execStartCensus, command_selected s hs, zero, reduceIte]
  rfl

/-- START CENSUS begins a census over its period and keeps the latched results (R144). -/
theorem exec_startCensus_counting {hi lo : Byte} (positive : word16 hi lo ≠ 0) :
    exec (.startCensus [hi, lo]) s
      = .next ({ s with
          census := { s.census with state := .counting, remaining := word16 hi lo, running := .zero } }.answered
          status [hi, lo] .ok []) := by
  change execStartCensus [hi, lo] s = _
  simp only [execStartCensus, command_selected s hs, positive, reduceIte]
  rfl

/-! ## The answers of SET LEVEL -/

/-- SET LEVEL with a parameter that is no handle, no policy or no level (R129). -/
theorem exec_setLevel_value {h p v : Byte} (unread : handle? h = none ∨ policy? p = none ∨ level? v = none) :
    exec (.setLevel [h, p, v]) s = .next (s.answered status [h, p, v] .value []) := by
  change execSetLevel [h, p, v] s = _
  simp only [execSetLevel, command_selected s hs]
  split
  next handle policy level => simp [handle, policy, level] at unread
  next => rfl

variable {h : Handle} {p : Byte} {policy : LevelPolicy} {v : Level} (readPolicy : policy? p = some policy)
include readPolicy

/-- SET LEVEL on a FREE record (R129). -/
theorem exec_setLevel_noRecord (free : (s.record h).state = .free) :
    exec (.setLevel [byteOf h.val, p, byteOf v.val]) s
      = .next (s.answered status [byteOf h.val, p, byteOf v.val] .noRecord []) := by
  change execSetLevel [byteOf h.val, p, byteOf v.val] s = _
  simp only [execSetLevel, command_selected s hs, handle?_byteOf, readPolicy, level?_byteOf, record_endTransaction,
    free, reduceIte]
  rfl

/-- SET LEVEL on any other record sets its policy, and its level and floor as the policy has it (R129). -/
theorem exec_setLevel_set (occupied : (s.record h).state ≠ .free) :
    exec (.setLevel [byteOf h.val, p, byteOf v.val]) s
      = .next ((s.setRecord h ((s.record h).setLevel policy v)).answered status [byteOf h.val, p, byteOf v.val] .ok
          []) := by
  change execSetLevel [byteOf h.val, p, byteOf v.val] s = _
  simp only [execSetLevel, command_selected s hs, handle?_byteOf, readPolicy, level?_byteOf, record_endTransaction,
    occupied, reduceIte]
  rfl

end

/-- Settles O13: the limits after power-on, the two cases of SET QUALITY LIMITS by whether its seven parameters are in
range, and those of START CENSUS by whether its period is 0. -/
theorem limitsAndCensusCommands : Obligations.LimitsAndCensusCommands := by
  refine ⟨⟨rfl, fun s status m h w r e c p hs => ⟨fun inRange => ?_, fun outOfRange => ?_⟩⟩,
    fun s status hi lo hs => ⟨fun zero => ?_, fun positive => ?_⟩⟩
  · exact exec_setQualityLimits_set hs (QualityLimits.inRange_ofBytes.mpr inRange)
  · exact exec_setQualityLimits_value hs (mt QualityLimits.inRange_ofBytes.mp outOfRange)
  · exact exec_startCensus_value hs zero
  · exact exec_startCensus_counting hs positive

/-- Settles O14: the cases by whether each parameter is read, whether the record is FREE, and the policy. -/
theorem setLevelByPolicy : Obligations.SetLevelByPolicy := by
  intro s status hs
  refine ⟨fun h p v outOfRange => ?_, fun h p v isPolicy free => ?_, fun h v occupied => ?_, fun h v occupied => ?_⟩
  · exact exec_setLevel_value hs (outOfRange.imp handle?_none (.imp policy?_none level?_none))
  · obtain ⟨policy, readPolicy⟩ := policy?_some isPolicy
    exact exec_setLevel_noRecord hs readPolicy free
  · exact exec_setLevel_set hs (policy := .automatic) rfl occupied
  · exact exec_setLevel_set hs (policy := .manual) rfl occupied

end Sys2Proof.Machine
end

section
/-! PROOFS. RETIRE and FORGET (R24, R147 to R149, R155): what each does to a record of the table in each of its cases,
what each command answers, and O18. -/

namespace Sys2Proof.Machine

section
variable (s : State)

/-! ## Whether an edit is open on a record -/

/-- An edit is open on a record exactly if the Edit Stage holds one of its handle (R157). -/
theorem editOpenOn_iff {h : Handle} : s.editOpenOn h = true ↔ ∃ edit, s.edit = some edit ∧ edit.handle = h := by
  unfold State.editOpenOn
  cases s.edit with
  | none => simp
  | some edit => simp

/-! ## Vacating and the port, and the changed set -/

/-- The end of a transaction and the return of cells meet in no part. -/
theorem freeCellsOf_endTransaction (bytes : List Byte) (entries : List FieldEntry) :
    (s.endTransaction bytes).freeCellsOf entries = (s.freeCellsOf entries).endTransaction bytes :=
  List.foldl_hom (fun t : State => t.endTransaction bytes) fun _ _ => rfl

/-- The end of a transaction and a new state of a seat meet in no part. -/
theorem setSeat?_endTransaction (bytes : List Byte) (n : Option SeatNo) (v : Seat) :
    (s.endTransaction bytes).setSeat? n v = (s.setSeat? n v).endTransaction bytes := by
  cases n with
  | none => rfl
  | some n => rfl

/-- The end of a transaction and the vacating of a record meet in no part. -/
theorem vacate_endTransaction (bytes : List Byte) (h : Handle) (outcome : ReleaseOutcome) (left : Seat) :
    (s.endTransaction bytes).vacate h outcome left = (s.vacate h outcome left).endTransaction bytes := by
  simp only [State.vacate, record_endTransaction, freeCellsOf_endTransaction, setSeat?_endTransaction]
  rfl

@[simp] theorem freeCellsOf_changed (entries : List FieldEntry) : (s.freeCellsOf entries).changed = s.changed := by
  rw [freeCellsOf_frame]

@[simp] theorem setSeat?_changed (n : Option SeatNo) (v : Seat) : (s.setSeat? n v).changed = s.changed := by
  cases n with
  | none => rfl
  | some n => rfl

/-- Vacating a record leaves the changed set (R24). -/
@[simp] theorem vacate_changed (h : Handle) (outcome : ReleaseOutcome) (left : Seat) :
    (s.vacate h outcome left).changed = s.changed := by
  simp [State.vacate, State.leaveOfferQueue]

end

/-! ## RETIRE and FORGET of a record of the table -/

section
variable {s : State} {h : Handle}

/-- RETIRE of a FREE record (R147). -/
theorem retire_free (free : (s.record h).state = .free) : s.retire h = s.refuse .noRecord := by
  simp only [State.retire, free]

/-- RETIRE of a record with an edit open on it (R147). -/
theorem retire_editOpen (occupied : (s.record h).state ≠ .free) (editOpen : s.editOpenOn h = true) :
    s.retire h = s.refuse .editOpen := by
  unfold State.retire
  split
  next free => exact absurd free occupied
  all_goals exact if_pos editOpen

/-- RETIRE of a RELEASING record has no effect (R147 to R149). -/
theorem retire_releasing (releasing : (s.record h).state = .releasing) (noEdit : s.editOpenOn h ≠ true) :
    s.retire h = s.accept := by
  simp only [State.retire, releasing, if_neg noEdit]

/-- RETIRE of an OFFERED record vacates it (R147 to R149). -/
theorem retire_offered (offered : (s.record h).state = .offered) (noEdit : s.editOpenOn h ≠ true) :
    s.retire h = (s.vacate h .unanswered .cooled).accept := by
  simp only [State.retire, offered, if_neg noEdit]

/-- RETIRE of a BOUND, MISSING or LOST record begins its release (R147 to R149). -/
theorem retire_linked
    (linked : (s.record h).state = .bound ∨ (s.record h).state = .missing ∨ (s.record h).state = .lost)
    (noEdit : s.editOpenOn h ≠ true) :
    s.retire h = (s.setRecord h { s.record h with state := .releasing, attempts := 0 }).accept := by
  obtain state | state | state := linked
  all_goals
    simp only [State.retire, state, if_neg noEdit]
    rfl

/-- FORGET of a FREE record (R155). -/
theorem forget_free (free : (s.record h).state = .free) : s.forget h = s.refuse .noRecord := if_pos free

/-- FORGET of a record with an edit open on it (R155). -/
theorem forget_editOpen (occupied : (s.record h).state ≠ .free) (editOpen : s.editOpenOn h = true) :
    s.forget h = s.refuse .editOpen := by
  rw [State.forget, if_neg occupied, if_pos editOpen]

/-- FORGET of any other record vacates it and takes its handle out of the changed set (R24, R155). -/
theorem forget_vacated (occupied : (s.record h).state ≠ .free) (noEdit : s.editOpenOn h ≠ true) :
    s.forget h = { s.vacate h .forgotten .cooled with changed := s.changed.set h.val false }.accept := by
  rw [State.forget, if_neg occupied, if_neg noEdit, State.unmarkChanged, vacate_changed]

end

/-! ## The answers of RETIRE and FORGET -/

section
variable {s : State} {status : Byte} (hs : s.selected status)
include hs

/-- RETIRE with a parameter that is no handle (R147). -/
theorem exec_retire_value {b : Byte} (noHandle : handle? b = none) :
    exec (.retire [b]) s = .next (s.answered status [b] .value []) := by
  change execRetire [b] s = _
  simp only [execRetire, command_selected s hs, noHandle]
  rfl

/-- RETIRE with a handle acts on its record after the end of the transaction. -/
theorem exec_retire_handle (h : Handle) :
    exec (.retire [byteOf h.val]) s
      = .next ((s.endTransaction (status :: List.replicate [byteOf h.val].length 0)).retire h) := by
  change execRetire [byteOf h.val] s = _
  simp only [execRetire, command_selected s hs, handle?_byteOf]

/-- FORGET with a parameter that is no handle (R155). -/
theorem exec_forget_value {b : Byte} (noHandle : handle? b = none) :
    exec (.forget [b]) s = .next (s.answered status [b] .value []) := by
  change execForget [b] s = _
  simp only [execForget, command_selected s hs, noHandle]
  rfl

/-- FORGET with a handle acts on its record after the end of the transaction. -/
theorem exec_forget_handle (h : Handle) :
    exec (.forget [byteOf h.val]) s
      = .next ((s.endTransaction (status :: List.replicate [byteOf h.val].length 0)).forget h) := by
  change execForget [byteOf h.val] s = _
  simp only [execForget, command_selected s hs, handle?_byteOf]

end

/-- Settles O18: each command by whether its parameter is a handle, then RETIRE and FORGET of that record by its state
and whether an edit is open on it, taken in the state at the end of the transaction. -/
theorem retireAndForgetByState : Obligations.RetireAndForgetByState := by
  intro s status hs
  refine ⟨⟨fun b high => exec_retire_value hs (handle?_none high), fun h => ?retire⟩,
    ⟨fun b high => exec_forget_value hs (handle?_none high), fun h => ?forget⟩⟩
  case retire =>
    intro b open?
    have editOpen_iff : s.editOpenOn h = true ↔ open? := editOpenOn_iff s
    rw [exec_retire_handle hs, ← editOpen_iff]
    refine ⟨fun free => ?_, fun occupied editOpen => ?_, fun releasing noEdit => ?_, fun offered noEdit => ?_,
      fun linked noEdit => ?_⟩
    · rw [retire_free (s := s.endTransaction _) free]; rfl
    · rw [retire_editOpen (s := s.endTransaction _) occupied editOpen]; rfl
    · rw [retire_releasing (s := s.endTransaction _) releasing noEdit]; rfl
    · rw [retire_offered (s := s.endTransaction _) offered noEdit, vacate_endTransaction]; rfl
    · rw [retire_linked (s := s.endTransaction _) linked noEdit]; rfl
  case forget =>
    intro b open?
    have editOpen_iff : s.editOpenOn h = true ↔ open? := editOpenOn_iff s
    rw [exec_forget_handle hs, ← editOpen_iff]
    refine ⟨fun free => ?_, fun occupied editOpen => ?_, fun occupied noEdit => ?_⟩
    · rw [forget_free (s := s.endTransaction _) free]; rfl
    · rw [forget_editOpen (s := s.endTransaction _) occupied editOpen]; rfl
    · rw [forget_vacated (s := s.endTransaction _) occupied noEdit, vacate_endTransaction]; rfl

end Sys2Proof.Machine
end

section
/-! PROOFS. BEGIN EDIT, ABORT EDIT and the five STAGE commands (R158, R160 to R162): what each command answers in each
of its cases, with O23 and O24. -/

namespace Sys2Proof.Machine

/-! ## BEGIN EDIT of a record of the table, and staging an operation -/

section
variable {s : State}

/-- BEGIN EDIT with an edit open (R158). -/
theorem beginEdit_editOpen {h : Handle} (editing : s.edit ≠ none) : s.beginEdit h = s.refuse .editOpen :=
  if_pos (Option.isSome_iff_ne_none.mpr editing)

/-- The check of BEGIN EDIT for an open edit passes with none open (R158). -/
theorem not_edit_isSome (closed : s.edit = none) : ¬s.edit.isSome := by
  rw [closed, Option.isSome_none]
  exact Bool.false_ne_true

/-- BEGIN EDIT of a FREE record (R158). -/
theorem beginEdit_free {h : Handle} (closed : s.edit = none) (free : (s.record h).state = .free) :
    s.beginEdit h = s.refuse .noRecord := by
  simp only [State.beginEdit, if_neg (not_edit_isSome closed), free]

/-- BEGIN EDIT of a RELEASING record (R158). -/
theorem beginEdit_releasing {h : Handle} (closed : s.edit = none) (releasing : (s.record h).state = .releasing) :
    s.beginEdit h = s.refuse .state := by
  simp only [State.beginEdit, if_neg (not_edit_isSome closed), releasing]

/-- BEGIN EDIT of any other record opens the context with nothing staged (R158). -/
theorem beginEdit_opens {h : Handle} (closed : s.edit = none) (occupied : (s.record h).state ≠ .free)
    (notReleasing : (s.record h).state ≠ .releasing) :
    s.beginEdit h = { s with edit := some { handle := h, ops := [] } }.accept := by
  rw [State.beginEdit, if_neg (not_edit_isSome closed)]
  split
  next free => exact absurd free occupied
  next releasing => exact absurd releasing notReleasing
  all_goals rfl

/-- A STAGE command with no edit open (R160). -/
theorem stage_noEdit {op : Option StagedOp} (closed : s.edit = none) : s.stage op = s.refuse .noEdit := by
  simp only [State.stage, closed]

variable {edit : EditContext} (editing : s.edit = some edit)
include editing

/-- A STAGE command with a parameter out of range (R160). -/
theorem stage_value : s.stage none = s.refuse .value := by
  simp only [State.stage, editing]

/-- A STAGE command with 8 operations staged (R160). -/
theorem stage_tooMany {op : StagedOp} (full : 8 ≤ edit.ops.length) : s.stage (some op) = s.refuse .tooMany := by
  simp only [State.stage, editing]
  exact if_neg (Nat.not_lt.mpr full)

/-- A STAGE command that passes its checks appends its operation to the list (R160). -/
theorem stage_appends {op : StagedOp} (room : edit.ops.length < 8) :
    s.stage (some op) = { s with edit := some { edit with ops := edit.ops ++ [op] } }.accept := by
  simp only [State.stage, editing]
  exact if_pos room

end

/-! ## The parameters of the STAGE commands (R161) -/

/-- The bytes 0 and 16 to 255 are no field id (R161). -/
theorem fieldId?_none {b : Byte} (h : b = 0 ∨ 16 ≤ b.toNat) : fieldId? b = none := by
  rw [fieldId?]
  split
  next => rfl
  next notZero => exact below?_none (h.resolve_left notZero)

/-- A mode is read from its code. -/
theorem mode?_code (m : Mode) : mode? (BitVec.ofNat 8 m.code) = some m := by
  cases m <;> rfl

/-- A byte above 2 is no mode. -/
theorem mode?_none {b : Byte} (h : 3 ≤ b.toNat) : mode? b = none := by
  have notShow : b ≠ 0 := by rintro rfl; exact absurd h (by decide)
  have notBlank : b ≠ 1 := by rintro rfl; exact absurd h (by decide)
  have notDormant : b ≠ 2 := by rintro rfl; exact absurd h (by decide)
  rw [mode?, if_neg notShow, if_neg notBlank, if_neg notDormant]

/-- STAGE FIELD with its field id and its length in range stages a SET (R161). -/
theorem stagedField?_set {id : FieldId} {length : Byte} {value : List Byte} (notZero : id ≠ 0)
    (inRange : 1 ≤ length.toNat ∧ length.toNat ≤ 12) :
    stagedField? (byteOf id.val) length value = some (.set id value) := by
  rw [stagedField?, if_pos inRange, fieldId?_byteOf notZero, Option.map_some]

/-- STAGE FIELD with its field id or its length out of range stages nothing (R161). -/
theorem stagedField?_none {f length : Byte} {value : List Byte}
    (outOfRange : f = 0 ∨ 16 ≤ f.toNat ∨ length.toNat = 0 ∨ 12 < length.toNat) :
    stagedField? f length value = none := by
  rw [stagedField?]
  split
  next inRange =>
    have notId : f = 0 ∨ 16 ≤ f.toNat := outOfRange.imp_right fun h => h.resolve_right (by omega)
    rw [fieldId?_none notId, Option.map_none]
  next => rfl

section
variable {s : State} {status : Byte} (hs : s.selected status)
include hs

/-! ## The answers of BEGIN EDIT and ABORT EDIT -/

/-- BEGIN EDIT with a parameter that is no handle (R158). -/
theorem exec_beginEdit_value {b : Byte} (noHandle : handle? b = none) :
    exec (.beginEdit [b]) s = .next (s.answered status [b] .value []) := by
  change execBeginEdit [b] s = _
  simp only [execBeginEdit, command_selected s hs, noHandle]
  rfl

/-- BEGIN EDIT with a handle acts on its record after the end of the transaction. -/
theorem exec_beginEdit_handle (h : Handle) :
    exec (.beginEdit [byteOf h.val]) s
      = .next ((s.endTransaction (status :: List.replicate [byteOf h.val].length 0)).beginEdit h) := by
  change execBeginEdit [byteOf h.val] s = _
  simp only [execBeginEdit, command_selected s hs, handle?_byteOf]

/-- ABORT EDIT with no edit open (R162). -/
theorem exec_abortEdit_noEdit (closed : s.edit = none) :
    exec (.abortEdit []) s = .next (s.answered status [] .noEdit []) := by
  change execAbortEdit [] s = _
  simp only [execAbortEdit, command0_selected s hs, endTransaction_edit, closed]
  rfl

/-- ABORT EDIT with an edit open closes it (R162). -/
theorem exec_abortEdit_closes {edit : EditContext} (editing : s.edit = some edit) :
    exec (.abortEdit []) s = .next (s.closeEdit.answered status [] .ok []) := by
  change execAbortEdit [] s = _
  simp only [execAbortEdit, command0_selected s hs, endTransaction_edit, editing]
  rfl

/-! ## The STAGE commands stage what they read -/

/-- STAGE FIELD with as many value bytes as its length names (R161, R173). -/
theorem exec_stageField {f length : Byte} {value : List Byte} (counted : value.length = length.toNat) :
    exec (.stageField (f :: length :: value)) s
      = .next ((s.endTransaction (status :: List.replicate (f :: length :: value).length 0)).stage
          (stagedField? f length value)) := by
  change execStageField (f :: length :: value) s = _
  rw [execStageField, command_selected s hs]
  exact congrArg Host.Outcome.next (if_pos counted)

/-- STAGE REMOVE reads a field id (R161). -/
theorem exec_stageRemove (f : Byte) :
    exec (.stageRemove [f]) s
      = .next ((s.endTransaction (status :: List.replicate [f].length 0)).stage ((fieldId? f).map .remove)) :=
  command_selected s hs [f] _

/-- STAGE MODE reads a mode (R161). -/
theorem exec_stageMode (m : Byte) :
    exec (.stageMode [m]) s
      = .next ((s.endTransaction (status :: List.replicate [m].length 0)).stage ((mode? m).map .mode)) :=
  command_selected s hs [m] _

/-- STAGE PERIOD reads a period exponent (R161). -/
theorem exec_stagePeriod (e : Byte) :
    exec (.stagePeriod [e]) s
      = .next ((s.endTransaction (status :: List.replicate [e].length 0)).stage ((exponent? e).map .period)) :=
  command_selected s hs [e] _

/-- STAGE SEAT reads a seat request (R161). -/
theorem exec_stageSeat (n : Byte) :
    exec (.stageSeat [n]) s
      = .next ((s.endTransaction (status :: List.replicate [n].length 0)).stage ((seatRequest? n).map .seat)) :=
  command_selected s hs [n] _

end

/-- Settles O23: BEGIN EDIT by whether its parameter is a handle, then by whether an edit is open and by the state of
the record, and ABORT EDIT by whether an edit is open. -/
theorem beginAndAbortEdit : Obligations.BeginAndAbortEdit := by
  intro s status hs
  refine ⟨⟨fun b high => exec_beginEdit_value hs (handle?_none high), fun h => ?begin⟩,
    exec_abortEdit_noEdit hs, fun editing => ?abort⟩
  case begin =>
    intro b
    rw [exec_beginEdit_handle hs]
    refine ⟨fun editing => ?_, fun closed free => ?_, fun closed releasing => ?_,
      fun closed occupied notReleasing => ?_⟩
    · rw [beginEdit_editOpen (s := s.endTransaction _) editing]; rfl
    · rw [beginEdit_free (s := s.endTransaction _) closed free]; rfl
    · rw [beginEdit_releasing (s := s.endTransaction _) closed releasing]; rfl
    · rw [beginEdit_opens (s := s.endTransaction _) closed occupied notReleasing]; rfl
  case abort =>
    obtain ⟨edit, editing⟩ := Option.ne_none_iff_exists'.mp editing
    exact exec_abortEdit_closes hs editing

/-- Settles O24: each of the five commands stages the operation that its parameters carry, in range or not, and
staging goes by whether an edit is open, whether there is an operation, and how many are staged. -/
theorem stageCommandsAppend : Obligations.StageCommandsAppend := by
  intro s status row params op hs commands
  have staged : exec row s = .next ((s.endTransaction (status :: List.replicate params.length 0)).stage op) := by
    obtain ⟨f, length, value, rfl, rfl, counted, read⟩ | ⟨f, rfl, rfl, read⟩ | ⟨m, rfl, rfl, read⟩ |
      ⟨e, rfl, rfl, read⟩ | ⟨n, rfl, rfl, read⟩ := commands
    · rw [exec_stageField hs counted]
      rw [counted] at read
      obtain ⟨id, notZero, rfl, low, high, rfl⟩ | ⟨outOfRange, rfl⟩ := read
      · rw [stagedField?_set notZero ⟨low, high⟩]
      · rw [stagedField?_none outOfRange]
    · rw [exec_stageRemove hs]
      obtain ⟨id, notZero, rfl, rfl⟩ | ⟨outOfRange, rfl⟩ := read
      · rw [fieldId?_byteOf notZero, Option.map_some]
      · rw [fieldId?_none outOfRange, Option.map_none]
    · rw [exec_stageMode hs]
      obtain ⟨mode, rfl, rfl⟩ | ⟨outOfRange, rfl⟩ := read
      · rw [mode?_code, Option.map_some]
      · rw [mode?_none outOfRange, Option.map_none]
    · rw [exec_stagePeriod hs]
      obtain ⟨period, rfl, rfl⟩ | ⟨outOfRange, rfl⟩ := read
      · rw [exponent?_byteOf, Option.map_some]
      · rw [exponent?_none outOfRange, Option.map_none]
    · rw [exec_stageSeat hs]
      obtain ⟨seat, rfl, rfl⟩ | ⟨rfl, rfl⟩ | ⟨low, high, rfl⟩ := read
      · rw [seatRequest?_byteOf, Option.map_some]
      · rw [seatRequest?_any, Option.map_some]
      · rw [seatRequest?_none ⟨low, high⟩, Option.map_none]
  rw [staged]
  refine ⟨fun closed => ?noEdit, fun edit editing absent => ?value, fun edit o editing read full => ?tooMany,
    fun edit o editing read room => ?appends⟩
  case noEdit => rw [stage_noEdit (s := s.endTransaction _) closed]; rfl
  case value => rw [absent, stage_value (s := s.endTransaction _) editing]; rfl
  case tooMany => rw [read, stage_tooMany (s := s.endTransaction _) editing full]; rfl
  case appends => rw [read, stage_appends (s := s.endTransaction _) editing room]; rfl

end Sys2Proof.Machine
end

section
/-! PROOFS. READ RECORD and READ FIELD (R17, R167, R168, R188): the parts of a response, what each command answers in
each of its cases, and O21. -/

namespace Sys2Proof.Machine

/-! ## The parts of a response (R17, R188) -/

/-- The code of a status is that of the first condition that holds (R17). -/
theorem status_code (e : FieldEntry) :
    e.status.code =
      if e.removing then 3 else if e.refused = some e.desired then 2 else if e.confirmed = some e.desired then 1
      else 0 := by
  rw [FieldEntry.status, apply_ite FieldStatus.code, apply_ite FieldStatus.code, apply_ite FieldStatus.code]
  rfl

section
variable (s : State)

/-- An entry as its five bytes (R188). -/
theorem entryBytes_eq (e : FieldEntry) :
    s.entryBytes e =
      [BitVec.ofNat 8 (e.id.val +
          16 * (if e.removing then 3 else if e.refused = some e.desired then 2
            else if e.confirmed = some e.desired then 1 else 0) +
          64 * e.sent.toNat + 128 * e.removing.toNat),
        BitVec.ofNat 8 (((s.cellOf e).getD []).length + 16 * e.confirmed.isSome.toNat + 32 * e.refused.isSome.toNat),
        e.desired, e.confirmed.getD 0, e.refused.getD 0] := by
  rw [State.entryBytes, FieldEntry.bytes, status_code]
  rfl

variable {s} {h : Handle}

/-- A LABEL or PROBE turn is a frame in flight of the record it names, in its generation (R1, R51). -/
theorem frameInFlight_label {turn : LabelTurn} (context : s.context = some (.label turn)) :
    s.frameInFlight h = decide (turn.handle = h ∧ turn.generation = (s.record h).generation) := by
  simp only [State.frameInFlight, context, Bool.decide_and, beq_eq_decide]

/-- An offer turn is a frame in flight of the record it names, in its generation (R1, R51). -/
theorem frameInFlight_offer {turn : OfferTurn} (context : s.context = some (.offer turn)) :
    s.frameInFlight h = decide (turn.handle = h ∧ turn.generation = (s.record h).generation) := by
  simp only [State.frameInFlight, context, Bool.decide_and, beq_eq_decide]

/-- A join window has no frame of a record in flight (R51). -/
theorem frameInFlight_joinWindow {superframe : BitVec 16} (context : s.context = some (.joinWindow superframe)) :
    s.frameInFlight h = false := by
  simp only [State.frameInFlight, context]

/-- With no turn there is no frame in flight (R51). -/
theorem frameInFlight_none (context : s.context = none) : s.frameInFlight h = false := by
  simp only [State.frameInFlight, context]

/-- The READ RECORD response of a FREE record (R167, R188). -/
theorem recordBytes_free (free : (s.record h).state = .free) :
    s.recordBytes h = [0] ++ be32 (s.record h).serial ++ [byteOf (s.record h).outcome.code] := by
  simp only [State.recordBytes, free, reduceIte]
  rfl

/-- The READ RECORD response of any other record (R167, R188). -/
theorem recordBytes_occupied (occupied : (s.record h).state ≠ .free) :
    s.recordBytes h = s.recordHead h ++ (s.record h).fields.flatMap s.entryBytes := if_neg occupied

end

/-- The one entry of a field id is the entry that is found (R16). -/
theorem entry?_of_unique {r : Record} {id : FieldId} {e : FieldEntry} (present : e ∈ r.fields) (named : e.id = id)
    (unique : ∀ f ∈ r.fields, f.id = id → f = e) : r.entry? id = some e := by
  have found : (r.entry? id).isSome := List.find?_isSome.mpr ⟨e, present, decide_eq_true named⟩
  obtain ⟨f, found⟩ := Option.isSome_iff_exists.mp found
  have sameId : f.id = id := by simpa using List.find?_some found
  have same : f = e := unique f (List.mem_of_find?_eq_some found) sameId
  rw [found, same]

section
variable {s : State} {status : Byte} (hs : s.selected status)
include hs

/-! ## The answers of READ RECORD -/

/-- READ RECORD with a parameter that is no handle (R167). -/
theorem exec_readRecord_value {b : Byte} (noHandle : handle? b = none) :
    exec (.readRecord [b]) s = .next (s.answered status [b] .value []) := by
  change execReadRecord [b] s = _
  simp only [execReadRecord, command_selected s hs, noHandle]
  rfl

/-- READ RECORD with a handle (R167). -/
theorem exec_readRecord_handle (h : Handle) :
    exec (.readRecord [byteOf h.val]) s = .next (s.answered status [byteOf h.val] .ok (s.recordBytes h)) := by
  change execReadRecord [byteOf h.val] s = _
  simp only [execReadRecord, command_selected s hs, handle?_byteOf]
  rfl

/-! ## The answers of READ FIELD -/

/-- READ FIELD with a parameter that is no handle or no field id (R168). -/
theorem exec_readField_value {h f : Byte} (unread : handle? h = none ∨ fieldId? f = none) :
    exec (.readField [h, f]) s = .next (s.answered status [h, f] .value []) := by
  change execReadField [h, f] s = _
  simp only [execReadField, command_selected s hs]
  split
  next handle id => simp [handle, id] at unread
  next => rfl

variable {h : Handle} {f : Byte} {id : FieldId} (readId : fieldId? f = some id)
include readId

/-- READ FIELD of a FREE record (R168). -/
theorem exec_readField_noRecord (free : (s.record h).state = .free) :
    exec (.readField [byteOf h.val, f]) s = .next (s.answered status [byteOf h.val, f] .noRecord []) := by
  change execReadField [byteOf h.val, f] s = _
  simp only [execReadField, command_selected s hs, handle?_byteOf, readId, record_endTransaction, free, reduceIte]
  rfl

variable (occupied : (s.record h).state ≠ .free)
include occupied

/-- READ FIELD of a field id with no entry (R168). -/
theorem exec_readField_absent (absent : (s.record h).entry? id = none) :
    exec (.readField [byteOf h.val, f]) s = .next (s.answered status [byteOf h.val, f] .value []) := by
  change execReadField [byteOf h.val, f] s = _
  simp only [execReadField, command_selected s hs, handle?_byteOf, readId, record_endTransaction, occupied, reduceIte,
    absent]
  rfl

/-- READ FIELD returns the entry of the field id and its value (R168). -/
theorem exec_readField_entry {e : FieldEntry} (found : (s.record h).entry? id = some e) :
    exec (.readField [byteOf h.val, f]) s = .next (s.answered status [byteOf h.val, f] .ok (s.fieldBytes e)) := by
  change execReadField [byteOf h.val, f] s = _
  simp only [execReadField, command_selected s hs, handle?_byteOf, readId, record_endTransaction, occupied, reduceIte,
    found]
  rfl

end

/-- Settles O21: the codes by their tables; READ RECORD by whether its parameter is a handle and its record is FREE,
the parts of the snapshot then being those of R188; READ FIELD by its checks in order. -/
theorem recordReadLayouts : Obligations.RecordReadLayouts := by
  refine ⟨⟨rfl, rfl, rfl, rfl, rfl⟩, fun s status hs =>
    ⟨⟨fun b high => exec_readRecord_value hs (handle?_none high), fun h => ?record⟩,
      fun h f outOfRange => ?fieldValue, fun h id notZero => ?field⟩⟩
  case record =>
    intro r orFF code inFlight editOpen
    have orFF_eq : byteOrFF = orFF := by
      funext n
      cases n with
      | none => rfl
      | some n => rfl
    have inFlight_eq : s.frameInFlight h = inFlight := by
      cases context : s.context with
      | none => simp only [frameInFlight_none context, inFlight, context]
      | some turn =>
        cases turn with
        | label turn => simp only [frameInFlight_label context, inFlight, context, r]
        | offer turn => simp only [frameInFlight_offer context, inFlight, context, r]
        | joinWindow _ => simp only [frameInFlight_joinWindow context, inFlight, context]
    have editOpen_eq : s.editOpenOn h = editOpen := by
      cases editing : s.edit with
      | none => simp only [State.editOpenOn, editOpen, editing]
      | some edit => simp only [State.editOpenOn, editOpen, editing]
    have entries_eq : s.entryBytes = _ := funext (entryBytes_eq s)
    rw [exec_readRecord_handle hs]
    refine ⟨fun free => ?_, fun occupied => ?_⟩
    · rw [recordBytes_free free]; rfl
    · rw [recordBytes_occupied occupied, State.recordHead, orFF_eq, inFlight_eq, editOpen_eq, entries_eq]
      rfl
  case fieldValue =>
    exact exec_readField_value hs (outOfRange.imp handle?_none fieldId?_none)
  case field =>
    intro params code
    have readId := fieldId?_byteOf notZero
    refine ⟨exec_readField_noRecord hs readId, fun occupied absent => ?absent,
      fun occupied e present named unique => ?entry⟩
    case absent =>
      have absent : (s.record h).entry? id = none := List.find?_eq_none.mpr fun e present =>
        mt of_decide_eq_true (absent e present)
      exact exec_readField_absent hs readId occupied absent
    case entry =>
      rw [exec_readField_entry hs readId occupied (entry?_of_unique present named unique), State.fieldBytes,
        entryBytes_eq]
      rfl

end Sys2Proof.Machine
end

section
/-! PROOFS. NO OPERATION and the reads of READ STATUS, READ IDENT, READ EVENTS, READ TIME and READ CENSUS (R42, R146,
R177, R178, R181, R182): what each command answers, with O7. -/

namespace Sys2Proof.Machine

/-! ## What the reads show is not moved by the transaction that reads it -/

section
variable (s : State) (out : List Byte)

/-- The status is of one instant: the end of the transaction that reads it moves none of its values (R181). -/
@[simp] theorem statusBytes_endTransaction : (s.endTransaction out).statusBytes = s.statusBytes := rfl

@[simp] theorem eventBytes_endTransaction : (s.endTransaction out).eventBytes = s.eventBytes := rfl

@[simp] theorem timeBytes_endTransaction : (s.endTransaction out).timeBytes = s.timeBytes := rfl

end

/-! ## The bytes of READ IDENT -/

/-- The part code 0160h, the revision 1, and the capacities of 160 records, 189 seats and 512 cells (R182). -/
theorem identBytes_eq : identBytes = [0x01, 0x60, 1, 160, 189, 0x02, 0x00] := by decide

section
variable {s : State} {status : Byte} (hs : s.selected status)
include hs

/-! ## The answers -/

/-- A command with no parameters that replies with what it reads, where the end of its own transaction leaves what it
reads as it was: the answer is read from the state before. -/
theorem command0_reads (read : State → List Byte) (kept : read (s.endTransaction [status]) = read s) :
    s.command0 [] (fun t => t.reply .ok (read t)) = .next (s.answered status [] .ok (read s)) := by
  rw [command0_selected s hs, kept]
  exact congrArg _ (reply_endTransaction s status [] .ok (read s))

/-- NO OPERATION answers OK with length 0 (R177). -/
theorem exec_noOperation : exec (.noOperation []) s = .next (s.answered status [] .ok []) :=
  command0_reads hs (fun _ => []) rfl

/-- READ IDENT answers the same bytes in every state (R182). -/
theorem exec_readIdent : exec (.readIdent []) s = .next (s.answered status [] .ok identBytes) :=
  command0_reads hs (fun _ => identBytes) rfl

/-- READ STATUS answers the status and changes none of its values (R181). -/
theorem exec_readStatus : exec (.readStatus []) s = .next (s.answered status [] .ok s.statusBytes) :=
  command0_reads hs State.statusBytes (statusBytes_endTransaction s _)

/-- READ EVENTS answers the flags and the mask and clears no flag (R178). -/
theorem exec_readEvents : exec (.readEvents []) s = .next (s.answered status [] .ok s.eventBytes) :=
  command0_reads hs State.eventBytes (eventBytes_endTransaction s _)

/-- READ TIME answers the place in the schedule and the link engine state (R42). -/
theorem exec_readTime : exec (.readTime []) s = .next (s.answered status [] .ok s.timeBytes) :=
  command0_reads hs State.timeBytes (timeBytes_endTransaction s _)

/-- READ CENSUS answers the census state, the turns remaining and the latched results (R146). -/
theorem exec_readCensus : exec (.readCensus []) s = .next (s.answered status [] .ok s.census.bytes) :=
  command0_reads hs (fun t => t.census.bytes) (congrArg Census.bytes (endTransaction_census s _))

end

/-- Settles O7: the codes by their tables, and each command by its answer, whose bytes are those of its layout. -/
theorem portReadsReportValues : Obligations.PortReadsReportValues := by
  refine ⟨⟨rfl, rfl⟩, fun s status hs => ⟨⟨exec_noOperation hs, ?ident⟩, ?status, ?events, ?time, ?census⟩⟩
  case ident => rw [exec_readIdent hs, identBytes_eq]
  case status => exact exec_readStatus hs
  case events => exact exec_readEvents hs
  case time => exact exec_readTime hs
  case census => exact exec_readCensus hs

end Sys2Proof.Machine
end


section
/-! PROOFS. One walk over the rows of exec for the invariants of the records, the cells, the limits, the census and the
event flags: what the operations of `BlockInvariant` keep is kept by every row that leaves the link engine, and, if it
reads nothing of the link engine, by every step. -/

namespace Sys2Proof.Machine

/-- Whatever next state an answer gives has a property. -/
def Answer.Gives (P : State → Prop) (answer : Answer) : Prop := ∀ t, answer = .next t → P t

theorem Answer.gives_next {P : State → Prop} {s : State} (h : P s) : Answer.Gives P (.next s) := by
  rintro t ⟨⟩
  exact h

/-! ## What the walk is made of -/

/-- The counts of a census are in 16 bits (R145). -/
structure CensusCounts.InRange (c : CensusCounts) : Prop where
  good : c.good ≤ 65535
  damaged : c.damaged ≤ 65535
  noReply : c.noReply ≤ 65535
  errorSum : c.errorSum ≤ 65535

/-- A census with turns remaining exactly while it counts, and its counts in 16 bits (R144, R145). -/
structure Census.InRange (c : Census) : Prop where
  counting : c.state = .counting → 1 ≤ c.remaining
  idle : c.state = .idle → c.remaining = 0
  remaining : c.remaining ≤ 65535
  running : c.running.InRange
  latched : c.latched.InRange

/-- Attention shows an unmasked flag, and the two turn counts are in 16 bits (R60, R65, R180). -/
structure Port.InRange (p : Port) : Prop where
  attention : p.attention = true ↔ p.flags &&& p.mask ≠ 0
  skipped : p.skipped ≤ 65535
  late : p.late ≤ 65535

/-- A change of a record that keeps its field list, makes no record FREE and leaves no range of 1.1. -/
structure Record.Touched (limits : QualityLimits) (r q : Record) : Prop where
  fields : q.fields = r.fields
  free : q.state = .free → r.state = .free
  inRange : limits.legal → r.InRange → q.InRange

/-- From one state to the other the records, the cells, the limits, the census, the event flags, the two turn counts and
the reset input are the same. -/
structure SameBlocks (s t : State) : Prop where
  records : t.records = s.records := by rfl
  cells : t.cells = s.cells := by rfl
  limits : t.limits = s.limits := by rfl
  census : t.census = s.census := by rfl
  flags : t.port.flags = s.port.flags := by rfl
  mask : t.port.mask = s.port.mask := by rfl
  attention : t.port.attention = s.port.attention := by rfl
  skipped : t.port.skipped = s.port.skipped := by rfl
  late : t.port.late = s.port.late := by rfl
  inReset : t.inReset = s.inReset := by rfl

/-- From one state to the other the link engine and the turn context are the same. -/
structure SameLink (s t : State) : Prop where
  time : t.time = s.time := by rfl
  context : t.context = s.context := by rfl
  lateRef : t.lateRef = s.lateRef := by rfl

/-- The operations that change records, cells, limits, census or port keep `P`. A commit does under a premise `A` on
the edit context, which the end of its transaction leaves. -/
structure BlockInvariant (A P : State → Prop) : Prop where
  same : ∀ {s t : State}, SameBlocks s t → SameLink s t → P s → P t
  port : ∀ (s : State) (p : Port), (s.port.InRange → p.InRange) → P s → P { s with port := p }
  limits : ∀ (s : State) (q : QualityLimits), q.legal → P s → P { s with limits := q }
  census : ∀ (s : State) (c : Census), (s.census.InRange → c.InRange) → P s → P { s with census := c }
  touch : ∀ (s : State) (h : Handle) (r : Record), (s.record h).Touched s.limits r → P s → P (s.setRecord h r)
  takeUp : ∀ (s : State) (h : Handle) (serial : BitVec 32) (period : Exponent) (seat : SeatNo) (level : Level),
    (s.record h).state = .free → P s → P (s.takeUp h serial period seat level)
  vacate : ∀ (s : State) (h : Handle) (outcome : ReleaseOutcome) (left : Seat), P s → P (s.vacate h outcome left)
  rejoin : ∀ (s : State) (h : Handle) (supply : BitVec 4), P s → P (s.rejoin h supply)
  acknowledge : ∀ (s : State) (h : Handle) (item : Item) (refused : Bool), P s → P (s.acknowledgeItem h item refused)
  premise : ∀ (s : State) (bytes : List Byte), A s → A (s.endTransaction bytes)
  commit : ∀ (s : State) (edit : EditContext) (seat : Option SeatNo), A s → s.edit = some edit →
    s.commitChoice edit.handle edit.ops = .ok seat → P s → P (s.applyCommit edit.handle edit.ops seat)

/-- Such an invariant that reads nothing of the link engine, and that a reset and the build of a frame keep. -/
structure BlindInvariant (A P : State → Prop) : Prop extends BlockInvariant A P where
  blind : ∀ {s t : State}, SameBlocks s t → P s → P t
  reset : P State.reset
  build : ∀ (s : State) (n : SeatNo) (h : Handle) (kind : TurnKind) (work : Work), P s → P (s.buildFrame n h kind work)

/-- The rows that act on the link engine, the turn context or the reset input. -/
def movesLink : Instr → Bool
  | .setLinkTiming _ | .startLink _ | .stopLink _ | .resetCommand _ | .powerOn | .resetLineAssert | .resetLineRelease
  | .settleExpiry _ | .superframeStart _ | .offerTurnTimeout | .joinWindowStart | .joinWindowEnd | .turnStart _ _
  | .downlinkSent | .plannedOpen | .plannedClose | .uplinkFrame _ => true
  | _ => false

/-! ## Ranges that the changes of a record keep -/

/-- The report of a reply keeps the ranges of a record (R25 to R27). -/
theorem Record.touched_report (r : Record) (limits : QualityLimits) (heard : Heard) (ack : Ack) :
    r.Touched limits ((r.takeSupply limits heard ack.supply).takePressTotal ack.presses) where
  fields := by unfold Record.takePressTotal; split <;> rfl
  free := by unfold Record.takePressTotal; split <;> exact id
  inRange _ h := by
    unfold Record.takePressTotal
    split
    · exact { h with }
    · exact { h with presses := Nat.min_le_right _ _ }

/-- A charged miss in BOUND that reaches the miss limit (R137). -/
theorem Record.missInBound_reached {r : Record} {limits : QualityLimits} (reached : limits.missLimit ≤ r.missCount + 1) :
    r.missInBound limits =
      { record :=
          { r with
            missCount := r.missCount + 1, state := .missing, huntCandidate := r.offset.next, huntMisses := 0 }
        changed := true, lost := false } := if_pos reached

/-- A charged miss in BOUND below the miss limit (R137). -/
theorem Record.missInBound_below {r : Record} {limits : QualityLimits} (below : r.missCount + 1 < limits.missLimit) :
    r.missInBound limits = { r with missCount := r.missCount + 1 }.quiet := if_neg (not_le.mpr below)

/-- A charged miss in BOUND leaves room for one more, or the record goes MISSING with no hunt miss (R137). -/
theorem Record.touched_missInBound {r : Record} {limits : QualityLimits} (bound : r.state = .bound) :
    r.Touched limits (r.missInBound limits).record := by
  rcases le_or_gt limits.missLimit (r.missCount + 1) with reached | below
  · rw [Record.missInBound_reached reached]
    exact ⟨rfl, nofun, fun legal h => { h with
      missCount := Nat.succ_le_succ (h.bound bound), huntMisses := Nat.zero_le _, bound := nofun,
      missing := fun _ => Nat.zero_le _ }⟩
  · rw [Record.missInBound_below below]
    refine ⟨rfl, id, fun legal h => ?_⟩
    have few : r.missCount + 1 ≤ 14 := Nat.le_of_lt_succ (below.trans_le legal.1.2)
    exact { h with missCount := few.trans (by decide), bound := fun _ => few }

/-- A charged miss in MISSING below the hunt length (R139). -/
theorem Record.missInHunt_below {r : Record} {limits : QualityLimits} (below : r.huntMisses + 1 < limits.huntLength) :
    r.missInHunt limits = { r with huntMisses := r.huntMisses + 1 }.quiet := if_neg (not_le.mpr below)

/-- A charged miss in MISSING that moves the hunt on (R139). -/
theorem Record.missInHunt_moves {r : Record} {limits : QualityLimits} (reached : limits.huntLength ≤ r.huntMisses + 1)
    (further : r.huntCandidate.next ≠ r.offset) :
    r.missInHunt limits = { r with huntCandidate := r.huntCandidate.next, huntMisses := 0 }.quiet := by
  rw [Record.missInHunt, if_pos reached, if_neg further]

/-- A charged miss in MISSING that ends the hunt (R139). -/
theorem Record.missInHunt_ends {r : Record} {limits : QualityLimits} (reached : limits.huntLength ≤ r.huntMisses + 1)
    (round : r.huntCandidate.next = r.offset) :
    r.missInHunt limits =
      { record := { r with huntMisses := r.huntMisses + 1, state := .lost, offset := .wide }
        changed := true, lost := true } := by
  rw [Record.missInHunt, if_pos reached, if_pos round]

/-- A charged miss in MISSING leaves room for one more, or moves the hunt on, or ends it in LOST (R139). -/
theorem Record.touched_missInHunt {r : Record} {limits : QualityLimits} (missing : r.state = .missing) :
    r.Touched limits (r.missInHunt limits).record := by
  rcases le_or_gt limits.huntLength (r.huntMisses + 1) with reached | below
  · by_cases round : r.huntCandidate.next = r.offset
    · rw [Record.missInHunt_ends reached round]
      exact ⟨rfl, nofun, fun legal h => { h with
        huntMisses := Nat.succ_le_succ (h.missing missing), bound := nofun, missing := nofun }⟩
    · rw [Record.missInHunt_moves reached round]
      exact ⟨rfl, id, fun legal h => { h with huntMisses := Nat.zero_le _, missing := fun _ => Nat.zero_le _ }⟩
  · rw [Record.missInHunt_below below]
    refine ⟨rfl, id, fun legal h => ?_⟩
    have few : r.huntMisses + 1 ≤ 7 := Nat.le_of_lt_succ (below.trans_le legal.2.1.2)
    exact { h with huntMisses := few.trans (by decide), missing := fun _ => few }

theorem Record.Touched.refl (r : Record) (limits : QualityLimits) : r.Touched limits r := ⟨rfl, id, fun _ h => h⟩

theorem Record.Touched.trans {limits : QualityLimits} {r q p : Record} (a : r.Touched limits q)
    (b : q.Touched limits p) : r.Touched limits p :=
  ⟨b.fields.trans a.fields, fun h => a.free (b.free h), fun legal h => b.inRange legal (a.inRange legal h)⟩

/-- A record found or heard again has no miss to count (R131, R138, R140). -/
theorem Record.touched_missReset (r : Record) (limits : QualityLimits) : r.Touched limits { r with missCount := 0 } :=
  ⟨rfl, id, fun _ h => { h with missCount := Nat.zero_le _, bound := fun _ => Nat.zero_le _ }⟩

/-- The miss, hunt and state effects keep the ranges of a record, where a NONE finds the record as it was before step 2
of the close (R131, R137 to R141). -/
theorem Record.touched_missEffects {r before : Record} (limits : QualityLimits) (turn : LabelTurn)
    {outcome : TurnOutcome} (noReply : outcome = .noReply → r = before) :
    r.Touched limits (r.missEffects limits turn outcome before).record := by
  unfold Record.missEffects
  split
  case h_1 => exact r.touched_missReset limits
  case h_2 bound =>
    split
    · exact Record.touched_missInBound (noReply rfl ▸ bound)
    · exact .refl r limits
  case h_4 => exact ⟨rfl, nofun, fun _ h => { h with
      missCount := Nat.zero_le _, bound := fun _ => Nat.zero_le _, missing := nofun }⟩
  case h_5 =>
    split
    · exact ⟨rfl, id, fun _ h => { h with huntMisses := Nat.zero_le _, missing := fun _ => Nat.zero_le _ }⟩
    · exact .refl r limits
  case h_6 missing =>
    split
    · exact Record.touched_missInHunt (noReply rfl ▸ missing)
    · exact .refl r limits
  case h_7 => exact ⟨rfl, nofun, fun _ h => { h with
      missCount := Nat.zero_le _, bound := fun _ => Nat.zero_le _, missing := nofun }⟩
  all_goals exact .refl r limits

theorem Level.le_raise (l : Level) : l ≤ Level.raise l := by
  unfold Level.raise
  split
  · exact Nat.le_succ _
  · exact le_refl l

theorem Level.floor_le_lower {l floor : Level} (h : floor ≤ l) : floor ≤ Level.lower l floor := by
  unfold Level.lower
  split
  case isTrue above =>
    have above : floor.val < l.val := above
    exact Nat.le_sub_one_of_lt above
  case isFalse => exact h

/-- The end of a quality window changes the level and the clean windows alone (R133, R134). -/
theorem Record.windowVerdict_frame (r : Record) (limits : QualityLimits) :
    r.windowVerdict limits =
      { r with
        level := (r.windowVerdict limits).level, cleanWindows := (r.windowVerdict limits).cleanWindows } := by
  unfold Record.windowVerdict
  split
  · rfl
  · split
    · rfl
    · split
      · split <;> rfl
      · rfl

/-- The end of a quality window leaves the level not below the floor under AUTOMATIC (R128, R133). -/
theorem Record.floor_le_windowVerdict {r : Record} (limits : QualityLimits) (policy : r.policy = .automatic)
    (h : r.floor ≤ r.level) : r.floor ≤ (r.windowVerdict limits).level := by
  simp only [Record.windowVerdict, policy]
  split
  · exact h.trans (Level.le_raise _)
  · split
    · split
      · exact Level.floor_le_lower h
      · exact h
    · exact h

/-- The clean windows stay below their limit (R133, R134). -/
theorem Record.cleanWindows_windowVerdict (r : Record) {limits : QualityLimits} (legal : limits.legal) :
    (r.windowVerdict limits).cleanWindows ≤ 15 := by
  unfold Record.windowVerdict
  split
  · exact Nat.zero_le _
  · split
    · exact Nat.zero_le _
    · split
      · split
        · exact Nat.zero_le _
        case isFalse below => exact Nat.le_of_lt ((not_le.mp below).trans_le legal.2.2.2.2.2.1.2)
      · exact Nat.zero_le _

/-- The record with one more counted turn (R132). -/
def Record.counted (r : Record) (bad : Bool) : Record :=
  { r with windowTurns := r.windowTurns + 1, windowBad := r.windowBad + bad.toNat }

/-- A counted turn that leaves the quality window open (R132). -/
theorem Record.addToWindow_open {r : Record} {limits : QualityLimits} (bad : Bool)
    (room : r.windowTurns + 1 < limits.windowLength) : r.addToWindow limits bad = (r.counted bad).quiet :=
  if_neg (not_le.mpr room)

/-- A counted turn that ends the quality window (R133, R134). -/
theorem Record.addToWindow_ended {r : Record} {limits : QualityLimits} (bad : Bool)
    (full : limits.windowLength ≤ r.windowTurns + 1) :
    r.addToWindow limits bad =
      { record := { (r.counted bad).windowVerdict limits with windowTurns := 0, windowBad := 0 }
        changed := decide (((r.counted bad).windowVerdict limits).level ≠ r.level), lost := false } := if_pos full

/-- A counted turn keeps the ranges of a record (R132 to R134). -/
theorem Record.touched_addToWindow (r : Record) (limits : QualityLimits) (bad : Bool) :
    r.Touched limits (r.addToWindow limits bad).record := by
  rcases le_or_gt limits.windowLength (r.windowTurns + 1) with full | room
  · rw [Record.addToWindow_ended bad full, Record.windowVerdict_frame]
    exact ⟨rfl, id, fun legal h => { h with
      windowTurns := Nat.zero_le _, windowBad := Nat.zero_le _
      cleanWindows := Record.cleanWindows_windowVerdict _ legal
      automatic := fun policy =>
        Record.floor_le_windowVerdict (r := r.counted bad) limits policy (h.automatic policy) }⟩
  · rw [Record.addToWindow_open bad room]
    refine ⟨rfl, id, fun legal h => ?_⟩
    have few : r.windowTurns + 1 ≤ 64 := Nat.le_of_lt (room.trans_le legal.2.2.1.2)
    exact { h with windowTurns := few, windowBad := Nat.add_le_add h.windowBad (Bool.toNat_le bad) }

/-- A turn that counts in the quality window adds to it what the miss effects leave (R131, part 3). -/
theorem Record.judge_counted {r before : Record} {limits : QualityLimits} {turn : LabelTurn} {outcome : TurnOutcome}
    (counts : countedTurn turn outcome before = true) :
    r.judge limits turn outcome before =
      let missed := r.missEffects limits turn outcome before
      let windowed := missed.record.addToWindow limits (badTurn limits outcome)
      { record := windowed.record, changed := missed.changed || windowed.changed, lost := missed.lost } := if_pos counts

/-- A turn that does not count has the miss effects alone (R131). -/
theorem Record.judge_uncounted {r before : Record} {limits : QualityLimits} {turn : LabelTurn} {outcome : TurnOutcome}
    (counts : countedTurn turn outcome before = false) :
    r.judge limits turn outcome before = r.missEffects limits turn outcome before :=
  if_neg (Bool.not_eq_true _ ▸ counts)

/-- The Quality Monitor keeps the ranges of a record, where a NONE finds it as it was before step 2 (R131). -/
theorem Record.touched_judge {r before : Record} (limits : QualityLimits) (turn : LabelTurn) {outcome : TurnOutcome}
    (noReply : outcome = .noReply → r = before) : r.Touched limits (r.judge limits turn outcome before).record := by
  have missed := Record.touched_missEffects limits turn noReply
  cases counts : countedTurn turn outcome before with
  | true =>
    rw [Record.judge_counted counts]
    exact missed.trans (Record.touched_addToWindow _ limits _)
  | false =>
    rw [Record.judge_uncounted counts]
    exact missed

/-- The sent effects keep the ranges of a record (R61, R125, R150). -/
theorem Record.touched_frameSent (r : Record) (limits : QualityLimits) (turn : LabelTurn) :
    r.Touched limits (r.frameSent turn) := by
  refine ⟨rfl, id, fun _ h => { h with modeHold := ?hold, attempts := ?attempts }⟩
  case hold =>
    show (if _ then _ else _) ≤ 2
    split
    · exact (Nat.sub_le _ _).trans h.modeHold
    · exact h.modeHold
  case attempts =>
    show (if _ then _ else _) ≤ 4
    split
    · exact Nat.min_le_right _ _
    · exact h.attempts

/-- SET LEVEL keeps the ranges of a record (R128, R129). -/
theorem Record.touched_setLevel (r : Record) (limits : QualityLimits) (policy : LevelPolicy) (value : Level) :
    r.Touched limits (r.setLevel policy value) := by
  cases policy with
  | automatic => exact ⟨rfl, id, fun _ h => { h with automatic := fun _ => le_max_right _ _ }⟩
  | manual => exact ⟨rfl, id, fun _ h => { h with automatic := nofun }⟩

/-- A confirmed mode keeps the ranges of a record (R124). -/
theorem State.touched_confirmMode (r : Record) (limits : QualityLimits) (m : Mode) :
    r.Touched limits
      { r with
        modeConfirmed := m
        modeHold :=
          if decide (r.modeConfirmed = .dormant) != decide (m = .dormant) then Config.modeHoldTurns
          else r.modeHold } := by
  refine ⟨rfl, id, fun _ h => { h with modeHold := ?_ }⟩
  show (if _ then _ else _) ≤ 2
  split
  · exact le_refl 2
  · exact h.modeHold

/-- A NONE leaves a record that it does not vacate as it was (R66, step 2). -/
theorem replyEffects_noReply (s : State) (turn : LabelTurn)
    (occupied : ((s.replyEffects turn .noReply).record turn.handle).state ≠ .free) :
    s.replyEffects turn .noReply = s := by
  revert occupied
  simp only [State.replyEffects, State.releaseUnanswered]
  split
  · intro occupied
    refine absurd ?_ occupied
    simp only [State.completeRelease, State.vacate, record_markChanged, record_setFlag, record_setRecord_self]
    rfl
  · exact fun _ => rfl

/-! ## The census at a close, case by case (R145) -/

/-- The running counts stay in 16 bits (R145). -/
theorem CensusCounts.inRange_count {c : CensusCounts} (h : c.InRange) (outcome : TurnOutcome) :
    (c.count outcome).InRange := by
  cases outcome with
  | good corrected ack => exact { h with good := Nat.min_le_right _ _, errorSum := Nat.min_le_right _ _ }
  | damaged => exact { h with damaged := Nat.min_le_right _ _ }
  | noReply => exact { h with noReply := Nat.min_le_right _ _ }

/-- A census that has counted its last close is latched and IDLE, with CENSUS_DONE set (R145). -/
theorem countCensus_last {s : State} (outcome : TurnOutcome) (counting : s.census.state = .counting)
    (last : s.census.remaining ≤ 1) :
    s.countCensus outcome =
      { s with
        census :=
          { state := .idle, remaining := 0, running := s.census.running.count outcome
            latched := s.census.running.count outcome } }.setFlag .censusDone := by
  have none_left : s.census.remaining - 1 = 0 := by omega
  simp only [State.countCensus, counting, State.completeCensus, none_left, and_self, if_true]

/-- A census that goes on has counted one close more (R145). -/
theorem countCensus_more {s : State} (outcome : TurnOutcome) (counting : s.census.state = .counting)
    (more : 1 < s.census.remaining) :
    s.countCensus outcome =
      { s with
        census :=
          { s.census with
            running := s.census.running.count outcome, remaining := s.census.remaining - 1 } } := by
  have some_left : s.census.remaining - 1 ≠ 0 := by omega
  simp only [State.countCensus, counting, State.completeCensus, some_left, and_false, if_false]

/-- An idle census counts nothing (R145). -/
theorem countCensus_idle {s : State} (outcome : TurnOutcome) (idle : s.census.state = .idle) :
    s.countCensus outcome = s := by
  simp only [State.countCensus, idle]

/-! ## The offer turn start, case by case (R67, R92) -/

/-- The OFFER to the head of the offer queue, where there is one. -/
def State.offerHead (s : State) : State :=
  match s.offerQueue with
  | [] => s
  | first :: _ => s.buildOffer first

/-- On an empty offer queue the offer turn is idle. -/
theorem offerTurnStart_idle {s : State} (empty : s.offerQueue = []) : s.offerTurnStart = s := by
  simp only [State.offerTurnStart, empty]

/-- With READY inactive the offer turn is SKIPPED. -/
theorem offerTurnStart_skipped {s : State} (queue : s.offerQueue ≠ []) (ready : s.ready = false) :
    s.offerTurnStart = s.skipTurn := by
  obtain ⟨h, rest, queue⟩ := List.exists_cons_of_ne_nil queue
  simp only [State.offerTurnStart, queue, ready, Bool.false_eq_true, if_false]

/-- With READY active the exhausted heads fall and the next is offered. -/
theorem offerTurnStart_offers {s : State} (queue : s.offerQueue ≠ []) (ready : s.ready = true) :
    s.offerTurnStart = (s.dropExhausted s.offerQueue).offerHead := by
  obtain ⟨h, rest, queue⟩ := List.exists_cons_of_ne_nil queue
  simp only [State.offerTurnStart, queue, ready, if_true]
  rfl

/-! ## The choice of ADMIT -/

/-- The record that an ADMIT chooses is FREE (R107). -/
theorem admitChoice_free {s : State} {serial : BitVec 32} {request : SeatRequest} {h : Handle} {n : SeatNo}
    (choice : s.admitChoice serial request = .ok (h, n)) : (s.record h).state = .free := by
  unfold State.admitChoice at choice
  split at choice
  · cases choice
  · split at choice
    · cases choice
    case h_2 lowest =>
      split at choice
      · cases choice
      · cases choice
        exact lowestFreeRecord_some s lowest

/-! ## The walk over the rows that leave the link engine -/

namespace BlockInvariant

variable {A P : State → Prop} (inv : BlockInvariant A P) {s : State}
include inv

/-! ### Flags, marks and the port -/

theorem withEvents (flags mask : BitVec 9) (h : P s) : P (s.withEvents flags mask) :=
  inv.port s _ (fun p => { p with attention := bne_iff_ne }) h

theorem setFlag (f : EventFlag) (h : P s) : P (s.setFlag f) := inv.withEvents _ _ h

theorem skipTurn (h : P s) : P s.skipTurn :=
  inv.setFlag .turnSkipped (inv.port s _ (fun p => { p with skipped := Nat.min_le_right _ _ }) h)

theorem countLate (h : P s) : P s.countLate := inv.port s _ (fun p => { p with late := Nat.min_le_right _ _ }) h

theorem markChanged (k : Handle) (h : P s) : P (s.markChanged k) := inv.setFlag .changed (inv.same {} {} h)

theorem markChangedIf (b : Bool) (k : Handle) (h : P s) : P (s.markChangedIf b k) := by
  cases b
  · exact h
  · exact inv.markChanged k h

theorem reply (c : ResultCode) (b : List Byte) (h : P s) : P (s.reply c b) := inv.same {} {} h

theorem refuse (c : ResultCode) (h : P s) : P (s.refuse c) := inv.reply c [] h

theorem accept (h : P s) : P s.accept := inv.reply .ok [] h

/-! ### The claims of a close -/

theorem report (k : Handle) (heard : Heard) (ack : Ack) (h : P s) : P (s.report k heard ack) :=
  inv.markChangedIf _ k (inv.touch s k _ (Record.touched_report _ _ heard ack) h)

theorem bind (k : Handle) (h : P s) : P (s.bind k) := by
  have bound := inv.touch s k { s.record k with state := .bound, modeConfirmed := .showing, missCount := 0 }
    ⟨rfl, nofun, fun _ r => { r with
      missCount := Nat.zero_le _, bound := fun _ => Nat.zero_le _, missing := nofun }⟩ h
  exact inv.markChanged k (inv.same {} {} bound)

theorem confirmMove (k : Handle) (h : P s) : P (s.confirmMove k) := by
  unfold State.confirmMove
  split
  · exact h
  · have vacated : P (s.setSeat? (s.record k).seat .free) := by
      cases (s.record k).seat
      · exact h
      · exact inv.same {} {} h
    exact inv.markChanged k (inv.touch _ k _ ⟨rfl, id, fun _ r => { r with }⟩ vacated)

theorem confirmRetime (k : Handle) (e : Exponent) (h : P s) : P (s.confirmRetime k e) :=
  inv.markChanged k (inv.touch s k _ ⟨rfl, id, fun _ r => { r with }⟩ h)

theorem confirmMode (k : Handle) (m : Mode) (h : P s) : P (s.confirmMode k m) :=
  inv.markChanged k (inv.touch s k _ (State.touched_confirmMode _ _ m) h)

theorem acknowledgeFrom (k : Handle) (refusals : BitVec 6) (items : List Item) :
    ∀ (i : Nat) {s : State}, P s → P (s.acknowledgeFrom k refusals i items) := by
  induction items with
  | nil => exact fun _ _ h => h
  | cons item items ih => exact fun i s h => ih (i + 1) (inv.acknowledge s k item _ h)

theorem confirmWork (k : Handle) (work : Work) (ack : Ack) (h : P s) : P (s.confirmWork k work ack) := by
  cases work with
  | poll => exact h
  | update items => exact inv.markChangedIf _ k (inv.acknowledgeFrom k ack.refusals items 0 h)
  | mode m => exact inv.confirmMode k m h
  | retime e => exact inv.confirmRetime k e h
  | move n =>
    simp only [State.confirmWork]
    split
    · exact inv.confirmMove k h
    · exact h
  | release => exact h

theorem goodEffects (turn : LabelTurn) (ack : Ack) (h : P s) : P (s.goodEffects turn ack) := by
  unfold State.goodEffects
  split
  case h_1 => exact inv.bind turn.handle h
  case h_2 | h_3 | h_4 => exact inv.confirmWork turn.handle turn.work ack h
  case h_5 | h_6 | h_7 => exact inv.confirmMove turn.handle h
  all_goals exact h

theorem completeRelease (k : Handle) (outcome : ReleaseOutcome) (left : Seat) (h : P s) :
    P (s.completeRelease k outcome left) :=
  inv.markChanged k (inv.setFlag .released (inv.vacate s k outcome left h))

theorem replyEffects (turn : LabelTurn) (outcome : TurnOutcome) (h : P s) : P (s.replyEffects turn outcome) := by
  have unanswered : P (s.releaseUnanswered turn) := by
    unfold State.releaseUnanswered
    split
    · exact inv.completeRelease turn.handle _ _ h
    · exact h
  cases outcome with
  | good corrected ack =>
    simp only [State.replyEffects]
    split
    · exact inv.completeRelease turn.handle _ _ h
    · exact inv.goodEffects turn ack h
  | damaged => exact unanswered
  | noReply => exact unanswered

theorem judgeTurn (turn : LabelTurn) (outcome : TurnOutcome) (before : Record)
    (noReply : outcome = .noReply → s.record turn.handle = before) (h : P s) :
    P (s.judgeTurn turn outcome before) := by
  have judged := inv.markChangedIf ((s.record turn.handle).judge s.limits turn outcome before).changed turn.handle
    (inv.touch s turn.handle _ (Record.touched_judge s.limits turn noReply) h)
  unfold State.judgeTurn
  simp only
  split
  · exact inv.setFlag .lost judged
  · exact judged

theorem applyClose (turn : LabelTurn) (outcome : TurnOutcome) (h : P s) : P (s.applyClose turn outcome) := by
  unfold State.applyClose
  split
  · have reported : P (s.closeReport turn outcome) := by
      cases outcome with
      | good corrected ack => exact inv.report turn.handle _ ack h
      | damaged => exact h
      | noReply => exact h
    have effected := inv.replyEffects turn outcome reported
    simp only
    split
    · exact effected
    case isFalse occupied =>
      refine inv.judgeTurn turn outcome _ ?_ effected
      rintro rfl
      rw [replyEffects_noReply _ turn occupied]
  · exact h

theorem completeCensus (h : P s) : P s.completeCensus := by
  unfold State.completeCensus
  split
  case isTrue done =>
    refine inv.setFlag .censusDone (inv.census s _ (fun c => ?_) h)
    exact ⟨nofun, fun _ => done.2, c.remaining, c.running, c.running⟩
  case isFalse => exact h

theorem countCensus (outcome : TurnOutcome) (h : P s) : P (s.countCensus outcome) := by
  cases state : s.census.state with
  | idle => rwa [countCensus_idle outcome state]
  | counting =>
    rcases le_or_gt s.census.remaining 1 with last | more
    · rw [countCensus_last outcome state last]
      refine inv.setFlag .censusDone (inv.census s _ (fun c => ?_) h)
      exact ⟨nofun, fun _ => rfl, Nat.zero_le _, CensusCounts.inRange_count c.running outcome,
        CensusCounts.inRange_count c.running outcome⟩
    · rw [countCensus_more outcome state more]
      refine inv.census s _ (fun c => ?_) h
      exact { c with
        counting := fun _ => Nat.le_sub_one_of_lt more
        idle := fun idle => absurd (state.symm.trans idle) nofun
        remaining := (Nat.sub_le _ _).trans c.remaining
        running := CensusCounts.inRange_count c.running outcome }

/-! ### Frames heard outside a turn -/

theorem queueJoin (serial : BitVec 32) (supply : BitVec 4) (corrected : Nat) (h : P s) :
    P (s.queueJoin serial supply corrected) := by
  unfold State.queueJoin
  split
  · exact inv.same {} {} h
  · split
    · exact inv.setFlag .joinHeard (inv.same {} {} h)
    · exact inv.setFlag .joinDropped h

theorem joinOffered (k : Handle) (supply : BitVec 4) (h : P s) : P (s.joinOffered k supply) :=
  inv.markChangedIf _ k (inv.touch s k _ ⟨rfl, id, fun _ r => { r with attempts := Nat.zero_le _ }⟩ h)

theorem takeJoinFrame (frame : Decoded) (h : P s) : P (s.takeJoinFrame frame) := by
  cases frame with
  | join address serial supply corrected =>
    simp only [State.takeJoinFrame]
    split
    · unfold State.processJoin
      split
      · exact inv.queueJoin serial supply corrected h
      case h_2 k _ =>
        split
        · exact inv.joinOffered k supply h
        case h_2 | h_3 | h_4 => exact inv.rejoin s k supply h
        · exact inv.queueJoin serial supply corrected (inv.completeRelease k _ _ h)
        · exact h
    · exact h
  | damaged => exact h
  | ack address tag contents corrected => exact h
  | other => exact h

theorem takeLate (frame : Decoded) (h : P s) : P (s.takeLate frame) := by
  unfold State.takeLate
  split
  · split
    · exact inv.countLate h
    · exact h
  all_goals exact h

/-! ### The offer queue -/

theorem fallFromOffer (k : Handle) (h : P s) : P (s.fallFromOffer k) := by
  have left : P (s.leaveOfferQueue k) := inv.same {} {} h
  exact inv.markChanged k (inv.setFlag .lost
    (inv.touch _ k _ ⟨rfl, nofun, fun _ r => { r with bound := nofun, missing := nofun }⟩ left))

theorem dropExhausted (queue : List Handle) : ∀ {s : State}, P s → P (s.dropExhausted queue) := by
  induction queue with
  | nil => exact fun h => h
  | cons k rest ih =>
    intro s h
    unfold State.dropExhausted
    split
    · exact h
    · exact ih (inv.fallFromOffer k h)

theorem countOffer (turn : OfferTurn) (h : P s) : P (s.countOffer turn) := by
  unfold State.countOffer
  split
  · have counted := inv.touch s turn.handle
      { s.record turn.handle with attempts := min ((s.record turn.handle).attempts + 1) Config.maxAttempts }
      ⟨rfl, id, fun _ r => { r with attempts := Nat.min_le_right _ _ }⟩ h
    exact inv.same {} {} counted
  · exact h

/-! ### Commands -/

/-- A command that is not taken raises the chip select alone; one that is taken has its effect (R172). -/
theorem command (params : List Byte) {effect : State → State} (keeps : ∀ {s}, A s → P s → P (effect s)) (a : A s)
    (h : P s) : Answer.Gives P (s.command params effect) := by
  refine Answer.gives_next ?_
  unfold State.takeCommand
  split
  · exact inv.same {} {} h
  · exact keeps (inv.premise s _ a) (inv.same {} {} h)

theorem command0 (params : List Byte) {effect : State → State} (keeps : ∀ {s}, A s → P s → P (effect s)) (a : A s)
    (h : P s) : Answer.Gives P (s.command0 params effect) := by
  refine inv.command params (fun a h => ?_) a h
  split
  · exact keeps a h
  · exact inv.refuse _ h

omit inv in
theorem event {effect : State → State} (keeps : ∀ {s}, P s → P (effect s)) (h : P s) :
    Answer.Gives P (s.event effect) := by
  refine Answer.gives_next ?_
  split
  · exact h
  · exact keeps h

theorem admitWith (serial : BitVec 32) (period : Option Exponent) (seat : Option SeatRequest) (level : Option Level)
    (h : P s) : P (s.admitWith serial period seat level) := by
  unfold State.admitWith
  split
  · split
    · exact inv.refuse _ h
    case h_2 choice => exact inv.reply _ _ (inv.takeUp s _ _ _ _ _ (admitChoice_free choice) h)
  · exact inv.refuse _ h

theorem retire (k : Handle) (h : P s) : P (s.retire k) := by
  have releasing : P (s.modifyRecord k fun r => { r with state := .releasing, attempts := 0 }) :=
    inv.touch s k _ ⟨rfl, nofun, fun _ r => { r with
      attempts := Nat.zero_le _, bound := nofun, missing := nofun }⟩ h
  unfold State.retire
  split
  · exact inv.refuse _ h
  · split
    · exact inv.refuse _ h
    · exact inv.accept (inv.vacate s k _ _ h)
  · split
    · exact inv.refuse _ h
    · exact inv.accept h
  all_goals
    split
    · exact inv.refuse _ h
    · exact inv.accept releasing

theorem forget (k : Handle) (h : P s) : P (s.forget k) := by
  unfold State.forget
  split
  · exact inv.refuse _ h
  · split
    · exact inv.refuse _ h
    · exact inv.accept (inv.same {} {} (inv.vacate s k .forgotten .cooled h))

theorem takePresses (k : Handle) (h : P s) : P (s.modifyRecord k fun r => { r with presses := 0 }) :=
  inv.touch s k _ ⟨rfl, id, fun _ r => { r with presses := Nat.zero_le _ }⟩ h

theorem stage (op : Option StagedOp) (h : P s) : P (s.stage op) := by
  unfold State.stage
  split
  · exact inv.refuse _ h
  · split
    · exact inv.refuse _ h
    · split
      · exact inv.same {} {} h
      · exact inv.refuse _ h

theorem setQualityLimits (params : List Byte) (a : A s) (h : P s) :
    Answer.Gives P (execSetQualityLimits params s) := by
  refine inv.command params (fun {s} _ h => ?_) a h
  split
  · simp only
    split
    case isTrue legal => exact inv.accept (inv.limits s _ legal h)
    case isFalse => exact inv.refuse _ h
  · exact inv.refuse _ h

theorem startCensus (params : List Byte) (a : A s) (h : P s) : Answer.Gives P (execStartCensus params s) := by
  have zero : CensusCounts.zero.InRange := ⟨Nat.zero_le _, Nat.zero_le _, Nat.zero_le _, Nat.zero_le _⟩
  refine inv.command params (fun {s} _ h => ?_) a h
  split
  case h_1 hi lo =>
    split
    · exact inv.refuse _ h
    case isFalse positive =>
      have small : word16 hi lo ≤ 65535 := by have := hi.isLt; have := lo.isLt; unfold word16; omega
      exact inv.accept (inv.census s _ (fun c => ⟨fun _ => Nat.pos_of_ne_zero positive, nofun, small, zero, c.latched⟩) h)
  case h_2 => exact inv.refuse _ h

theorem commitEdit (params : List Byte) (a : A s) (h : P s) : Answer.Gives P (execCommitEdit params s) := by
  refine inv.command0 params (fun {s} a h => ?_) a h
  split
  · exact inv.refuse _ h
  case h_2 edit editing =>
    split
    · exact inv.refuse _ h
    case h_2 seat choice => exact inv.accept (inv.commit s edit seat a editing choice h)

/-- Every row that leaves the link engine keeps what the operations of the blocks keep. -/
theorem exec (row : Instr) (still : movesLink row = false) (a : A s) (h : P s) : Answer.Gives P (exec row s) := by
  cases row with
  | chipSelectFall => exact Answer.gives_next (inv.same {} {} h)
  | emptyTransaction => exact Answer.gives_next (inv.same {} {} h)
  | unknownCommand code params => exact inv.command params (fun _ => inv.refuse _) a h
  | readResponse params =>
    refine Answer.gives_next ?_
    unfold State.takeCommand
    split <;> exact inv.same {} {} h
  | noOperation params => exact inv.command0 params (fun _ => inv.accept) a h
  | readStatus params => exact inv.command0 params (fun _ => inv.reply _ _) a h
  | readIdent params => exact inv.command0 params (fun _ => inv.reply _ _) a h
  | readEvents params => exact inv.command0 params (fun _ => inv.reply _ _) a h
  | readTime params => exact inv.command0 params (fun _ => inv.reply _ _) a h
  | readCensus params => exact inv.command0 params (fun _ => inv.reply _ _) a h
  | clearEvents params =>
    refine inv.command params (fun _ h => ?_) a h
    split
    · exact inv.accept (inv.withEvents _ _ h)
    · exact inv.refuse _ h
  | setEventMask params =>
    refine inv.command params (fun _ h => ?_) a h
    split
    · exact inv.accept (inv.withEvents _ _ h)
    · exact inv.refuse _ h
  | setQualityLimits params => exact inv.setQualityLimits params a h
  | setLevel params =>
    refine inv.command params (fun {s} _ h => ?_) a h
    split
    · split
      · split
        · exact inv.refuse _ h
        · exact inv.accept (inv.touch s _ _ (Record.touched_setLevel _ _ _ _) h)
      · exact inv.refuse _ h
    · exact inv.refuse _ h
  | startCensus params => exact inv.startCensus params a h
  | readJoin params =>
    refine inv.command0 params (fun _ h => ?_) a h
    split
    · exact inv.refuse _ h
    · exact inv.reply _ _ h
  | dropJoin params =>
    refine inv.command0 params (fun _ h => ?_) a h
    split
    · exact inv.refuse _ h
    · exact inv.same {} {} h
  | admitLabel params =>
    refine inv.command params (fun _ h => ?_) a h
    split
    · exact inv.admitWith _ _ _ _ h
    · exact inv.refuse _ h
  | retire params =>
    refine inv.command params (fun _ h => ?_) a h
    split
    · split
      · exact inv.refuse _ h
      · exact inv.retire _ h
    · exact inv.refuse _ h
  | forget params =>
    refine inv.command params (fun _ h => ?_) a h
    split
    · split
      · exact inv.refuse _ h
      · exact inv.forget _ h
    · exact inv.refuse _ h
  | findSerial params =>
    refine inv.command params (fun _ h => ?_) a h
    split
    · split
      · split
        · exact inv.refuse _ h
        · exact inv.reply _ _ h
      · exact inv.refuse _ h
    · exact inv.refuse _ h
  | readRecord params =>
    refine inv.command params (fun _ h => ?_) a h
    split
    · split
      · exact inv.refuse _ h
      · exact inv.reply _ _ h
    · exact inv.refuse _ h
  | readField params =>
    refine inv.command params (fun _ h => ?_) a h
    split
    · split
      · split
        · exact inv.refuse _ h
        · split
          · exact inv.refuse _ h
          · exact inv.reply _ _ h
      · exact inv.refuse _ h
    · exact inv.refuse _ h
  | readChanged params =>
    refine inv.command0 params (fun _ h => ?_) a h
    split
    · exact inv.refuse _ h
    · exact inv.same {} {} h
  | listState params =>
    refine inv.command params (fun _ h => ?_) a h
    split
    · split
      · exact inv.reply _ _ h
      · exact inv.refuse _ h
    · exact inv.refuse _ h
  | takePresses params =>
    refine inv.command params (fun _ h => ?_) a h
    split
    · split
      · exact inv.refuse _ h
      · split
        · exact inv.refuse _ h
        · exact inv.reply _ _ (inv.takePresses _ h)
    · exact inv.refuse _ h
  | beginEdit params =>
    refine inv.command params (fun {s} _ h => ?_) a h
    split
    · split
      · exact inv.refuse _ h
      · unfold State.beginEdit
        split
        · exact inv.refuse _ h
        · split
          · exact inv.refuse _ h
          · exact inv.refuse _ h
          all_goals exact inv.same {} {} h
    · exact inv.refuse _ h
  | stageField params =>
    refine inv.command params (fun _ h => ?_) a h
    split
    · split
      · exact inv.stage _ h
      · exact inv.refuse _ h
    · exact inv.refuse _ h
  | stageRemove params | stageMode params | stagePeriod params | stageSeat params =>
    refine inv.command params (fun _ h => ?_) a h
    split
    · exact inv.stage _ h
    · exact inv.refuse _ h
  | commitEdit params => exact inv.commitEdit params a h
  | abortEdit params =>
    refine inv.command0 params (fun _ h => ?_) a h
    split
    · exact inv.refuse _ h
    · exact inv.same {} {} h
  | coolingExpiry seat =>
    change Answer.Gives P (execCoolingExpiry seat s)
    exact event (effect := fun s => s.setSeat seat (s.seatState seat).expire) (fun h => inv.same {} {} h) h
  | censusCompletion => exact event (fun h => inv.completeCensus h) h
  | setLinkTiming _ | startLink _ | stopLink _ | resetCommand _ | powerOn | resetLineAssert | resetLineRelease
  | settleExpiry _ | superframeStart _ | offerTurnTimeout | joinWindowStart | joinWindowEnd | turnStart _ _
  | downlinkSent | plannedOpen | plannedClose | uplinkFrame _ => cases still

end BlockInvariant

/-! ## The walk over the other rows -/

namespace BlindInvariant

variable {A P : State → Prop} (inv : BlindInvariant A P) {s : State}
include inv

theorem endDrain (h : P s) : P s.endDrain := by
  unfold State.endDrain
  split
  · exact inv.setFlag .linkState (inv.blind {} h)
  · exact h

theorem closeTurn (turn : LabelTurn) (outcome : TurnOutcome) (h : P s) : P (s.closeTurn turn outcome) :=
  inv.endDrain (inv.countCensus outcome (inv.applyClose turn outcome (inv.blind {} h)))

theorem closeSkipped (h : P s) : P s.closeSkipped := inv.endDrain (inv.skipTurn (inv.blind {} h))

theorem takeReply (turn : LabelTurn) (frame : Decoded) (h : P s) : P (s.takeReply turn frame) := by
  cases frame with
  | damaged => exact inv.closeTurn turn .damaged h
  | ack address tag contents corrected =>
    simp only [State.takeReply]
    split
    · exact inv.closeTurn turn _ h
    · exact h
  | join address serial supply corrected => exact h
  | other => exact h

theorem takeFrame (frame : Decoded) (h : P s) : P (s.takeFrame frame) := by
  unfold State.takeFrame
  split
  · split
    · exact inv.takeReply _ frame h
    · exact h
  · exact inv.takeJoinFrame frame h
  · exact h
  · exact inv.takeLate frame h

theorem offerTurnStart (h : P s) : P s.offerTurnStart := by
  by_cases queue : s.offerQueue = []
  · rwa [offerTurnStart_idle queue]
  · cases ready : s.ready with
    | false =>
      rw [offerTurnStart_skipped queue ready]
      exact inv.skipTurn h
    | true =>
      rw [offerTurnStart_offers queue ready, State.offerHead]
      split
      · exact inv.dropExhausted _ h
      · exact inv.blind {} (inv.dropExhausted _ h)

theorem startTurn (n : SeatNo) (ready : Bool) (h : P s) : P (s.startTurn n ready) := by
  have placed : P { s.moveTo (seatSlot n) (seatPosition n) with lateRef := none, ready := ready } := inv.blind {} h
  unfold State.startTurn
  simp only
  split
  · unfold State.startHeldTurn
    simp only
    split
    · split
      · exact inv.build _ n _ _ _ placed
      · exact inv.skipTurn placed
    · exact placed
  all_goals exact placed

theorem labelSent (turn : LabelTurn) (h : P s) : P (s.labelSent turn) := by
  have moved : P { s with context := some (.label { turn with phase := s.phaseAfterSent turn }) } := inv.blind {} h
  unfold State.labelSent
  simp only
  split
  · exact inv.touch _ turn.handle _ (Record.touched_frameSent _ _ turn) moved
  · exact moved

theorem beginSuperframe (ready : Bool) (h : P s) : P (s.beginSuperframe ready) := inv.offerTurnStart (inv.blind {} h)

theorem resetByCommand (h : P s) : P s.resetByCommand := by
  have zero : CensusCounts.zero.InRange := ⟨Nat.zero_le _, Nat.zero_le _, Nat.zero_le _, Nat.zero_le _⟩
  have cleared : P { s with port := s.port.afterReset } :=
    inv.port s _ (fun _ => ⟨(by decide : false = true ↔ (0#9) &&& 0#9 ≠ 0), Nat.zero_le _, Nat.zero_le _⟩) h
  have idle : P { ({ s with port := s.port.afterReset } : State) with census := .idle } :=
    inv.census _ .idle (fun _ => ⟨nofun, fun _ => rfl, Nat.zero_le _, zero, zero⟩) cleared
  exact inv.blind {} idle

theorem initial_of_cause (cause : ResetCause) : P (s.initial cause) := inv.blind {} inv.reset

theorem tickClock (h : P s) : P s.tickClock := by
  have settle : P s.tickSettle := by
    unfold State.tickSettle
    split
    · exact h
    · simp only
      split <;> exact inv.blind {} h
  have schedule : P s.tickSchedule := by
    unfold State.tickSchedule State.nextTurn
    split
    · exact inv.blind {} h
    · simp only
      generalize (if s.time.link = .running then _ else _ : List Instr) = events
      split <;> exact inv.blind {} h
  unfold State.tickClock
  split
  · exact h
  · split
    · exact h
    · exact settle
    · exact schedule
    · exact schedule

/-- Every row but the fall of the reset line keeps what the operations of the blocks keep and no part of the link engine
enters. -/
theorem exec (row : Instr) (notAsserted : row ≠ .resetLineAssert) (a : A s) (h : P s) :
    Answer.Gives P (exec row s) := by
  cases still : movesLink row with
  | false => exact inv.toBlockInvariant.exec row still a h
  | true =>
    cases row with
    | resetCommand params => exact inv.command0 params (fun _ => inv.resetByCommand) a h
    | setLinkTiming params =>
      refine inv.command params (fun _ h => ?_) a h
      split
      · split
        · exact inv.refuse _ h
        · exact inv.blind {} h
      · exact inv.refuse _ h
    | startLink params =>
      refine inv.command0 params (fun _ h => ?_) a h
      split
      · exact inv.blind {} h
      · exact inv.accept h
      · exact inv.accept h
      · exact inv.refuse _ h
    | stopLink params =>
      refine inv.command0 params (fun {s} _ h => inv.accept ?_) a h
      have halted : P s.halt := inv.blind {} h
      unfold State.stopLink
      split
      · exact h
      · exact halted
      · split
        · exact inv.blind {} h
        · exact inv.blind {} h
        · exact inv.setFlag .linkState halted
        · exact inv.setFlag .linkState halted
      · exact h
    | powerOn =>
      refine Answer.gives_next ?_
      split
      · exact inv.blind {} h
      · exact inv.initial_of_cause _
    | resetLineAssert => exact absurd rfl notAsserted
    | resetLineRelease =>
      refine Answer.gives_next ?_
      split
      · exact inv.initial_of_cause _
      · exact h
    | settleExpiry ready =>
      change Answer.Gives P (execSettleExpiry ready s)
      unfold execSettleExpiry
      refine BlockInvariant.event (fun h => ?_) h
      split
      · exact inv.beginSuperframe ready (inv.setFlag .linkState (inv.blind {} h))
      · exact h
    | superframeStart ready =>
      change Answer.Gives P (execSuperframeStart ready s)
      unfold execSuperframeStart
      refine BlockInvariant.event (fun h => ?_) h
      split
      · exact inv.beginSuperframe ready h
      · exact h
    | offerTurnTimeout =>
      change Answer.Gives P (execOfferTurnTimeout s)
      unfold execOfferTurnTimeout
      refine BlockInvariant.event (fun h => ?_) h
      split
      · exact inv.endDrain (inv.skipTurn (inv.blind {} h))
      all_goals exact h
    | joinWindowStart =>
      change Answer.Gives P (execJoinWindowStart s)
      unfold execJoinWindowStart
      refine BlockInvariant.event (fun {s} h => ?_) h
      split
      · split
        · exact inv.blind {} h
        · exact inv.blind {} (inv.skipTurn (s := { s with context := none }) (inv.blind {} h))
        · exact h
        · exact h
      · exact h
    | joinWindowEnd =>
      change Answer.Gives P (execJoinWindowEnd s)
      unfold execJoinWindowEnd
      refine BlockInvariant.event (fun h => ?_) h
      split
      · exact inv.blind {} h
      all_goals exact h
    | turnStart seat ready =>
      change Answer.Gives P (execTurnStart seat ready s)
      unfold execTurnStart
      refine BlockInvariant.event (fun h => ?_) h
      split
      · exact inv.startTurn seat ready h
      · exact h
    | downlinkSent =>
      change Answer.Gives P (execDownlinkSent s)
      unfold execDownlinkSent
      refine BlockInvariant.event (fun h => ?_) h
      split
      · split
        · exact inv.labelSent _ h
        · exact h
      · exact inv.endDrain (inv.countOffer _ (inv.blind {} h))
      all_goals exact h
    | plannedOpen =>
      change Answer.Gives P (execPlannedOpen s)
      unfold execPlannedOpen
      refine BlockInvariant.event (fun h => ?_) h
      split
      · split
        · exact inv.blind {} h
        · exact inv.blind {} h
        · exact h
      all_goals exact h
    | plannedClose =>
      change Answer.Gives P (execPlannedClose s)
      unfold execPlannedClose
      refine BlockInvariant.event (fun h => ?_) h
      split
      · split
        · exact inv.closeSkipped (inv.blind {} h)
        · exact h
        · exact inv.closeTurn _ .noReply (inv.blind {} h)
      all_goals exact h
    | uplinkFrame frame => exact BlockInvariant.event (fun h => inv.takeFrame _ h) h
    | _ => cases still

/-- Every step keeps what the operations of the blocks keep, if the fall of the reset line does: a tick of the clock moves
none of their parts. -/
theorem step {t : State} (premise : A s) (front : ∀ rest, A s → A { s with pending := rest })
    (assert : ∀ {s}, P s → Answer.Gives P (execResetLineAssert s)) (h : P s) (run : step s = .next t) : P t := by
  unfold Machine.step at run
  split at run
  · cases run
    exact inv.tickClock h
  case h_2 row rest _ =>
    have taken : P { s with pending := rest } := inv.blind {} h
    by_cases line : row = .resetLineAssert
    · subst line
      exact assert taken t run
    · exact inv.exec row line (front rest premise) taken t run

end BlindInvariant

end Sys2Proof.Machine
end


section
/-! PROOFS. What vacating, a rejoin, an acknowledged item and a commit do to their record, whatever the state. -/

namespace Sys2Proof.Machine

section
variable (s : State)

/-! ## Vacating and a rejoin -/

/-- Vacating leaves the record with its generation and serial, and the outcome of its cause (R12). -/
@[simp] theorem vacate_record (h : Handle) (outcome : ReleaseOutcome) (left : Seat) :
    (s.vacate h outcome left).record h = (s.record h).vacated outcome := record_setRecord_self _ h _

@[simp] theorem setSeat?_time (n : Option SeatNo) (v : Seat) : (s.setSeat? n v).time = s.time := by cases n <;> rfl
@[simp] theorem setSeat?_limits (n : Option SeatNo) (v : Seat) : (s.setSeat? n v).limits = s.limits := by cases n <;> rfl
@[simp] theorem setSeat?_cells (n : Option SeatNo) (v : Seat) : (s.setSeat? n v).cells = s.cells := by cases n <;> rfl
@[simp] theorem setSeat?_records (n : Option SeatNo) (v : Seat) : (s.setSeat? n v).records = s.records := by
  cases n <;> rfl
@[simp] theorem record_setSeat? (n : Option SeatNo) (v : Seat) (k : Handle) : (s.setSeat? n v).record k = s.record k := by
  cases n <;> rfl

@[simp] theorem freeCellsOf_records (entries : List FieldEntry) : (s.freeCellsOf entries).records = s.records := by
  rw [freeCellsOf_frame]
@[simp] theorem freeCellsOf_time (entries : List FieldEntry) : (s.freeCellsOf entries).time = s.time := by
  rw [freeCellsOf_frame]
@[simp] theorem freeCellsOf_limits (entries : List FieldEntry) : (s.freeCellsOf entries).limits = s.limits := by
  rw [freeCellsOf_frame]
@[simp] theorem freeCellsOf_seats (entries : List FieldEntry) : (s.freeCellsOf entries).seats = s.seats := by
  rw [freeCellsOf_frame]

theorem setSeat?_frame (n : Option SeatNo) (v : Seat) :
    s.setSeat? n v = { s with seats := (s.setSeat? n v).seats } := by cases n <;> rfl

/-- Vacating changes records, seats, cells and the offer queue (R12). -/
theorem vacate_frame (h : Handle) (outcome : ReleaseOutcome) (left : Seat) :
    s.vacate h outcome left =
      { s with
        records := (s.vacate h outcome left).records, seats := (s.vacate h outcome left).seats
        cells := (s.vacate h outcome left).cells, offerQueue := (s.vacate h outcome left).offerQueue } := by
  simp only [State.vacate]
  rw [setSeat?_frame _ (s.record h).target, setSeat?_frame _ (s.record h).seat, freeCellsOf_frame]
  rfl

/-- The state of a rejoin before the record is written: the cells of REMOVING entries are free, and an old seat left for
a move target cools (R100, R101). -/
def State.rejoinFreed (s : State) (h : Handle) : State :=
  let r := s.record h
  let s := s.freeCellsOf (r.fields.filter (·.removing))
  if r.target.isSome then s.setSeat? r.seat .cooled else s

theorem actsOn_rejoinFreed (h : Handle) : ActsOn h s (s.rejoinFreed h) := by
  unfold State.rejoinFreed
  simp only
  split
  · exact (actsOn_freeCellsOf _ s).trans (actsOn_setSeat? _ _ _)
  · exact actsOn_freeCellsOf _ s

/-- Before the record is written a rejoin changes cells and seats (R100, R101). -/
theorem rejoinFreed_frame (h : Handle) :
    s.rejoinFreed h = { s with cells := (s.rejoinFreed h).cells, seats := (s.rejoinFreed h).seats } := by
  simp only [State.rejoinFreed]
  split
  · rw [setSeat?_frame, freeCellsOf_frame]
  · rw [freeCellsOf_frame]

/-- A rejoin writes its record, puts the handle at the tail of the offer queue and marks it changed (R100). -/
theorem rejoin_eq (h : Handle) (supply : BitVec 4) :
    s.rejoin h supply =
      State.markChanged
        { (s.rejoinFreed h).setRecord h (s.joinReport (s.record h).rejoined supply) with
          offerQueue := (s.rejoinFreed h).offerQueue ++ [h] } h := by
  have freed := actsOn_rejoinFreed s h
  have report : (s.rejoinFreed h).joinReport (s.record h).rejoined supply =
      s.joinReport (s.record h).rejoined supply := by
    rw [State.joinReport, State.joinReport, freed.limits, freed.time]
  rw [← report]
  rfl

theorem actsOn_rejoin (h : Handle) (supply : BitVec 4) : ActsOn h s (s.rejoin h supply) := by
  rw [rejoin_eq]
  have written := (actsOn_rejoinFreed s h).trans (actsOn_setRecord _ (s.joinReport (s.record h).rejoined supply))
  refine ActsOn.trans (t := { (s.rejoinFreed h).setRecord h (s.joinReport (s.record h).rejoined supply) with
    offerQueue := (s.rejoinFreed h).offerQueue ++ [h] }) ?_ (actsOn_markChanged _)
  refine written.trans ⟨fun _ _ => rfl, fun _ _ => rfl, rfl, rfl⟩

/-- The record after a rejoin (R100, R101). -/
@[simp] theorem rejoin_record (h : Handle) (supply : BitVec 4) :
    (s.rejoin h supply).record h = s.joinReport (s.record h).rejoined supply := by
  rw [rejoin_eq]
  exact record_setRecord_self _ h _

end

/-! ## Changes of one field list -/

/-- From one state to the other the field list of one record and the cells can differ, and nothing else. -/
structure ChangesFields (h : Handle) (s t : State) : Prop where
  frame : t = { s with records := t.records, cells := t.cells }
  others : ∀ k, k ≠ h → t.record k = s.record k
  record : t.record h = { s.record h with fields := (t.record h).fields }

namespace ChangesFields

variable {h : Handle} {s t u : State}

theorem refl (s : State) : ChangesFields h s s := ⟨rfl, fun _ _ => rfl, rfl⟩

theorem trans (a : ChangesFields h s t) (b : ChangesFields h t u) : ChangesFields h s u where
  frame := by rw [b.frame, a.frame]
  others k hk := (b.others k hk).trans (a.others k hk)
  record := by rw [b.record, a.record]

theorem of_cells (frame : t = { s with cells := t.cells }) : ChangesFields h s t := by
  rw [frame]
  exact ⟨rfl, fun _ _ => rfl, rfl⟩

theorem modifyRecord (s : State) (h : Handle) (f : List FieldEntry → List FieldEntry) :
    ChangesFields h s (s.modifyRecord h fun r => { r with fields := f r.fields }) where
  frame := rfl
  others k hk := record_setRecord_ne s _ hk
  record := by rw [State.modifyRecord, record_setRecord_self]

/-- A fold of changes is a change. -/
theorem foldl {α : Type} {f : State → α → State} (one : ∀ s a, ChangesFields h s (f s a)) (l : List α) :
    ∀ s, ChangesFields h s (l.foldl f s) := by
  induction l with
  | nil => exact refl
  | cons a l ih => exact fun s => (one s a).trans (ih _)

end ChangesFields

theorem changesFields_createField (s : State) (h : Handle) (id : FieldId) (value : List Byte) :
    ChangesFields h s (s.createField h id value) := by
  unfold State.createField
  split
  · exact .refl s
  case h_2 c _ =>
    exact (ChangesFields.of_cells (t := s.writeCell c value) rfl).trans
      (.modifyRecord _ h (insertEntry (.new id c)))

/-- Committing the field operations of an edit changes the field list of its record and the cells, and nothing else. -/
theorem changesFields_commitFields (s : State) (h : Handle) (ops : List StagedOp) :
    ChangesFields h s (s.commitFields h ops) := by
  have freed : ChangesFields h s (s.freeCellsOf (s.droppedEntries h ops)) := .of_cells (freeCellsOf_frame _ s)
  have written := freed.trans
    (.foldl (fun s (w : CellNo × List Byte) => .of_cells (t := s.writeCell w.1 w.2) rfl) (s.cellWrites h ops) _)
  have entries := written.trans (.modifyRecord _ h fun _ => s.committedEntries h ops)
  exact entries.trans (.foldl (fun s (f : FieldId × List Byte) => changesFields_createField s h f.1 f.2) _ _)

/-- An acknowledged set item (R83, R84). -/
theorem acknowledgeItem_set (s : State) (h : Handle) (id : FieldId) (version : BitVec 8) (refused : Bool) :
    s.acknowledgeItem h (.set id version) refused =
      if refused then (s.modifyRecord h (·.modifyEntry id (·.acknowledge version refused))).setFlag .refused
      else s.modifyRecord h (·.modifyEntry id (·.acknowledge version refused)) := rfl

/-- An acknowledged item changes the field list of its record and the cells, and can set REFUSED (R83 to R85). -/
theorem changesFields_acknowledgeItem (s : State) (h : Handle) (item : Item) (refused : Bool) :
    ∃ t, ChangesFields h s t ∧ (s.acknowledgeItem h item refused = t ∨
      s.acknowledgeItem h item refused = t.setFlag .refused) := by
  cases item with
  | set id version =>
    refine ⟨_, .modifyRecord s h fun l => l.map fun e => if e.id = id then e.acknowledge version refused else e, ?_⟩
    cases refused
    · exact .inl rfl
    · exact .inr rfl
  | remove id =>
    simp only [State.acknowledgeItem]
    split
    · exact ⟨s, .refl s, .inl rfl⟩
    case h_2 e _ =>
      split
      · exact ⟨_, (ChangesFields.of_cells (t := s.freeCell e.cell) rfl).trans
          (.modifyRecord _ h fun l => l.filter (·.id ≠ e.id)), .inl rfl⟩
      · exact ⟨_, .modifyRecord s h fun l => l.map fun e => if e.id = id then { e with confirmed := none } else e,
          .inl rfl⟩

/-! ## Commits -/

/-- A committed seat change acts on the seats and on one record (R110, R111). -/
theorem actsOn_commitSeat (s : State) (h : Handle) (seat : Option SeatNo) : ActsOn h s (s.commitSeat h seat) := by
  unfold State.commitSeat
  split
  · exact ActsOn.rfl s
  · split
    · exact ((actsOn_setSeat? s _ _).trans (actsOn_setSeat _ _ _)).trans (actsOn_modifyRecord _ _)
    · exact (actsOn_setSeat s _ _).trans (actsOn_modifyRecord _ _)

/-- The record after a committed seat change (R110, R111). -/
theorem commitSeat_record (s : State) (h : Handle) (seat : Option SeatNo) :
    (s.commitSeat h seat).record h =
      { s.record h with
        seat := if (s.record h).state = .offered then seat.or (s.record h).seat else (s.record h).seat
        target := if (s.record h).state = .offered then (s.record h).target else seat.or (s.record h).target } := by
  cases seat with
  | none => simp [State.commitSeat]
  | some n =>
    simp only [State.commitSeat, Option.some_or]
    split
    · simp only [State.modifyRecord, record_setRecord_self, record_setSeat, record_setSeat?]
    · simp only [State.modifyRecord, record_setRecord_self, record_setSeat]

/-- The record after a commit (R110, R111, R117, R122, R165). -/
theorem applyCommit_record (s : State) (h : Handle) (ops : List StagedOp) (seat : Option SeatNo) :
    (s.applyCommit h ops seat).record h =
      { s.record h with
        fields := ((s.applyCommit h ops seat).record h).fields
        modeDesired := (lastMode ops).getD (s.record h).modeDesired
        pendingPeriod := (match lastPeriod ops with
          | none => (s.record h).pendingPeriod
          | some e => if e = (s.record h).period then none else some e)
        seat := if (s.record h).state = .offered then seat.or (s.record h).seat else (s.record h).seat
        target := if (s.record h).state = .offered then (s.record h).target else seat.or (s.record h).target } := by
  have fields := (changesFields_commitFields s h ops).record
  simp only [State.applyCommit, record_closeEdit, State.modifyRecord, record_setRecord_self, commitSeat_record]
  rw [fields]
  cases lastPeriod ops <;> rfl

/-- A commit leaves every other record (R165). -/
theorem applyCommit_others (s : State) (h : Handle) (ops : List StagedOp) (seat : Option SeatNo) {k : Handle}
    (other : k ≠ h) : (s.applyCommit h ops seat).record k = s.record k := by
  simp only [State.applyCommit, record_closeEdit, State.modifyRecord, record_setRecord_ne _ _ other]
  rw [(actsOn_commitSeat _ h seat).others k other, (changesFields_commitFields s h ops).others k other]

/-- A committed seat change changes records and seats (R110, R111). -/
theorem commitSeat_frame (s : State) (h : Handle) (seat : Option SeatNo) :
    s.commitSeat h seat =
      { s with records := (s.commitSeat h seat).records, seats := (s.commitSeat h seat).seats } := by
  cases seat with
  | none => rfl
  | some n =>
    simp only [State.commitSeat]
    split
    · cases (s.record h).seat <;> rfl
    · rfl

/-- A commit changes records, seats and cells and closes the edit (R165). -/
theorem applyCommit_frame (s : State) (h : Handle) (ops : List StagedOp) (seat : Option SeatNo) :
    s.applyCommit h ops seat =
      { s with
        records := (s.applyCommit h ops seat).records, seats := (s.applyCommit h ops seat).seats
        cells := (s.applyCommit h ops seat).cells, edit := none } := by
  have fieldsFrame := (changesFields_commitFields s h ops).frame
  have seatFrame := commitSeat_frame (s.commitFields h ops) h seat
  unfold State.applyCommit
  generalize (s.commitFields h ops).commitSeat h seat = v at *
  generalize s.commitFields h ops = u at *
  have frame : v = { s with records := v.records, seats := v.seats, cells := v.cells } := by
    rw [seatFrame, fieldsFrame]
  rw [frame]
  rfl

end Sys2Proof.Machine
end

section
/-! PROOFS. The ranges of the records, the limits and the census (1.1, R128, R142, R144): O55. -/

namespace Sys2Proof.Machine

/-! ## The ranges as the walk keeps them -/

/-- The ranges of the records, the limits and the census, part by part. -/
structure Ranges (s : State) : Prop where
  records : ∀ h, (s.record h).InRange
  limits : s.limits.legal
  census : s.census.InRange

theorem ranges_iff {s : State} : Ranges s ↔ RangeInvariant s := by
  constructor
  · rintro ⟨records, limits, counting, idle, remaining, ⟨g, d, n, e⟩, g', d', n', e'⟩
    exact ⟨records, limits, counting, idle, remaining, ⟨g, d, n, e⟩, g', d', n', e'⟩
  · rintro ⟨records, limits, counting, idle, remaining, ⟨g, d, n, e⟩, g', d', n', e'⟩
    exact ⟨records, limits, counting, idle, remaining, ⟨g, d, n, e⟩, g', d', n', e'⟩

/-- A change of one record, with the limits and the census as they were, keeps the ranges if that record is in range. -/
theorem Ranges.of_record {s t : State} (r : Ranges s) (h : Handle) (others : ∀ k, k ≠ h → t.record k = s.record k)
    (limits : t.limits = s.limits) (census : t.census = s.census) (record : (t.record h).InRange) : Ranges t where
  records k := by
    by_cases same : k = h
    · exact same ▸ record
    · exact others k same ▸ r.records k
  limits := limits ▸ r.limits
  census := census ▸ r.census

/-- What acts on one record keeps the ranges if that record is in range. -/
theorem Ranges.actsOn {s t : State} {h : Handle} (r : Ranges s) (a : ActsOn h s t) (record : (t.record h).InRange) :
    Ranges t := r.of_record h a.others a.limits a.census record

/-! ## The records that the operations leave -/

theorem Record.vacant_inRange : Record.vacant.InRange :=
  ⟨by decide, by decide, by decide, by decide, by decide, by decide, by decide, by decide, by decide, by decide, by decide⟩

theorem Record.vacated_inRange (r : Record) (outcome : ReleaseOutcome) : (r.vacated outcome).InRange :=
  { Record.vacant_inRange with }

theorem Record.admitted_inRange (r : Record) (serial : BitVec 32) (period : Exponent) (seat : SeatNo) (level : Level) :
    (r.admitted serial period seat level).InRange :=
  { Record.vacant_inRange with bound := nofun, missing := nofun, automatic := fun _ => Fin.zero_le level }

theorem Record.rejoined_inRange {r : Record} (h : r.InRange) : r.rejoined.InRange :=
  { h with
    modeHold := Nat.zero_le _, huntMisses := Nat.zero_le _, missCount := Nat.zero_le _, attempts := Nat.zero_le _
    bound := nofun, missing := nofun }

/-- A change of the field list alone keeps a record in range. -/
theorem Record.InRange.of_fields {r q : Record} (h : r.InRange) (fields : q = { r with fields := q.fields }) :
    q.InRange := by
  rw [fields]
  exact { h with }

theorem Ranges.changesFields {s t : State} {h : Handle} (r : Ranges s) (c : ChangesFields h s t) : Ranges t :=
  r.of_record h c.others (by rw [c.frame]) (by rw [c.frame]) ((r.records h).of_fields c.record)

theorem Ranges.sameBlocks {s t : State} (r : Ranges s) (b : SameBlocks s t) : Ranges t :=
  ⟨fun h => by unfold State.record; rw [b.records]; exact r.records h, b.limits ▸ r.limits, b.census ▸ r.census⟩

/-- The operations of the walk keep the ranges. -/
theorem blindInvariant_ranges : BlindInvariant (fun _ => True) Ranges where
  same b _ r := r.sameBlocks b
  blind b r := r.sameBlocks b
  reset := by
    have zero : CensusCounts.zero.InRange := ⟨Nat.zero_le _, Nat.zero_le _, Nat.zero_le _, Nat.zero_le _⟩
    refine ⟨fun h => ?_, by decide, ⟨nofun, fun _ => rfl, Nat.zero_le _, zero, zero⟩⟩
    have vacant : State.reset.record h = Record.vacant := by simp [State.record, State.reset]
    exact vacant ▸ Record.vacant_inRange
  port s p _ r := ⟨r.records, r.limits, r.census⟩
  limits s q legal r := ⟨r.records, legal, r.census⟩
  census s c keeps r := ⟨r.records, r.limits, keeps r.census⟩
  touch s h q touched r := r.actsOn (actsOn_setRecord s q) (by
    rw [record_setRecord_self]
    exact touched.inRange r.limits (r.records h))
  takeUp s h serial period seat level _ r := by
    have set := r.of_record (t := (s.setSeat seat (.held h)).modifyRecord h (·.admitted serial period seat level)) h
      (fun k other => record_setRecord_ne _ _ other) rfl rfl (by
        rw [State.modifyRecord, record_setRecord_self]
        exact Record.admitted_inRange _ serial period seat level)
    exact ⟨set.records, set.limits, set.census⟩
  vacate s h outcome left r := r.actsOn (actsOn_vacate s outcome left) (by
    rw [vacate_record]
    exact Record.vacated_inRange _ outcome)
  rejoin s h supply r := r.actsOn (actsOn_rejoin s h supply) (by
    rw [rejoin_record]
    exact { Record.rejoined_inRange (r.records h) with })
  build s n h kind work r := r.of_record h (fun k other => record_setRecord_ne _ _ other) rfl rfl (by
    rw [State.buildFrame, record_setRecord_self]
    exact { r.records h with })
  acknowledge s h item refused r := by
    obtain ⟨t, changes, same | same⟩ := changesFields_acknowledgeItem s h item refused
    · rw [same]
      exact r.changesFields changes
    · rw [same]
      have q := r.changesFields changes
      exact ⟨q.records, q.limits, q.census⟩
  premise _ _ _ := trivial
  commit s edit seat _ _ _ r := by
    have frame := applyCommit_frame s edit.handle edit.ops seat
    refine r.of_record edit.handle (fun k => applyCommit_others s edit.handle edit.ops seat) (by rw [frame])
      (by rw [frame]) ?_
    rw [applyCommit_record]
    exact { r.records edit.handle with }

theorem Ranges.resetLineAssert {s : State} (r : Ranges s) : Answer.Gives Ranges (execResetLineAssert s) :=
  Answer.gives_next ⟨r.records, r.limits, r.census⟩

/-- Settles O55: the ranges go through the walk over the rows. -/
theorem stepKeepsRanges : Obligations.StepKeepsRanges := fun _ _ ranges run =>
  ranges_iff.mp
    (blindInvariant_ranges.step trivial (fun _ _ => trivial) Ranges.resetLineAssert (ranges_iff.mpr ranges) run)

end Sys2Proof.Machine
end


section
/-! PROOFS. What the operations on the records leave of the link engine and of the port; every row in reset; attention,
the two turn counts and the outputs in reset (R60, R65, R180, R183), the first half of O54. -/

namespace Sys2Proof.Machine

/-! ## What the operations on the records leave -/

/-- From one state to the other the link engine, the turn context and the reset input are the same. -/
structure LinkKept (s t : State) : Prop extends SameLink s t where
  inReset : t.inReset = s.inReset := by rfl

theorem LinkKept.trans {s t u : State} (a : LinkKept s t) (b : LinkKept t u) : LinkKept s u :=
  { time := b.time.trans a.time, context := b.context.trans a.context, lateRef := b.lateRef.trans a.lateRef
    inReset := b.inReset.trans a.inReset }

/-- What acts on one record leaves the link engine. -/
theorem ActsOn.linkKept {s t : State} {h : Handle} (a : ActsOn h s t) : LinkKept s t :=
  { time := a.time, context := a.context, lateRef := a.lateRef, inReset := a.inReset }

theorem linkKept_applyCommit (s : State) (h : Handle) (ops : List StagedOp) (seat : Option SeatNo) :
    LinkKept s (s.applyCommit h ops seat) := by
  have frame := applyCommit_frame s h ops seat
  exact { time := by rw [frame], context := by rw [frame], lateRef := by rw [frame], inReset := by rw [frame] }

/-- The operations on the records leave the link engine, and so keep whatever is said of it alone. -/
theorem blockInvariant_of_linkKept {P : State → Prop} (keeps : ∀ {s t : State}, LinkKept s t → P s → P t) :
    BlockInvariant (fun _ => True) P where
  same blocks link h := keeps { link with inReset := blocks.inReset } h
  port _ _ _ h := keeps {} h
  limits _ _ _ h := keeps {} h
  census _ _ _ h := keeps {} h
  touch _ _ _ _ h := keeps {} h
  takeUp _ _ _ _ _ _ _ h := keeps {} h
  vacate s _ outcome left h := keeps (actsOn_vacate s outcome left).linkKept h
  rejoin s k supply h := keeps (actsOn_rejoin s k supply).linkKept h
  acknowledge s _ item refused h := keeps (actsOn_acknowledgeItem s item refused).linkKept h
  premise _ _ _ := trivial
  commit s edit seat _ _ _ h := keeps (linkKept_applyCommit s edit.handle edit.ops seat) h

theorem blockInvariant_linkKept (s : State) : BlockInvariant (fun _ => True) (LinkKept s) :=
  blockInvariant_of_linkKept fun next kept => kept.trans next

/-- The build of a frame leaves the link engine, but for the turn context. -/
theorem buildFrame_inReset (s : State) (n : SeatNo) (h : Handle) (kind : TurnKind) (work : Work) :
    (s.buildFrame n h kind work).inReset = s.inReset := rfl

/-! ## The reset input -/

/-- A part that is not in reset stays out of it, whatever the operations do. -/
theorem blindInvariant_outOfReset : BlindInvariant (fun _ => True) (fun s => s.inReset = false) where
  toBlockInvariant := blockInvariant_of_linkKept fun kept out => kept.inReset.trans out
  blind blocks out := blocks.inReset.trans out
  reset := rfl
  build s n h kind work out := (buildFrame_inReset s n h kind work).trans out

/-! ## Rows that are not taken -/

/-- Every byte string is the encoding of the row it decodes to. -/
theorem encodeTransaction_decodeTransaction (bytes : List Byte) :
    encodeTransaction (decodeTransaction bytes) = some bytes := by
  cases bytes with
  | nil => rfl
  | cons code params =>
    change encodeTransaction (decodeCommand code params) = some (code :: params)
    unfold decodeCommand
    split
    case h_36 => rfl
    all_goals
      rename_i number
      have code_eq : code = BitVec.ofNat 8 code.toNat := by simp
      rw [number] at code_eq
      rw [code_eq]
      rfl

/-- A transaction that the port does not take leaves the chip select high and nothing else (R172). -/
theorem exec_transaction_not_taken {s : State} (none : s.captured = none) {row : Instr} {bytes : List Byte}
    (ends : encodeTransaction row = some bytes) : exec row s = .next s.deselect := by
  cases row with
  | emptyTransaction => rfl
  | readResponse params =>
    have taken (out : List Byte) : s.takeCommand out (fun s => s) = s.deselect := by simp [State.takeCommand, none]
    exact congrArg _ (taken _)
  | chipSelectFall | powerOn | resetLineAssert | resetLineRelease | settleExpiry _ | superframeStart _
  | coolingExpiry _ | offerTurnTimeout | joinWindowStart | joinWindowEnd | turnStart _ _ | downlinkSent
  | plannedOpen | plannedClose | uplinkFrame _ | censusCompletion => cases ends
  | _ => exact command_not_taken s none _ _

/-- The events of the Time Base, of the turn, of the Seat Map, of the census and from the front end. -/
def isEvent : Instr → Bool
  | .settleExpiry _ | .superframeStart _ | .coolingExpiry _ | .offerTurnTimeout | .joinWindowStart | .joinWindowEnd
  | .turnStart _ _ | .downlinkSent | .plannedOpen | .plannedClose | .uplinkFrame _ | .censusCompletion => true
  | _ => false

/-- In reset no event is taken (log 12). -/
theorem exec_event_in_reset {s : State} (held : s.inReset = true) {row : Instr} (event : isEvent row = true) :
    exec row s = .next s := by
  cases row with
  | settleExpiry | superframeStart | coolingExpiry | offerTurnTimeout | joinWindowStart | joinWindowEnd
  | turnStart | downlinkSent | plannedOpen | plannedClose | uplinkFrame | censusCompletion =>
    exact congrArg Host.Outcome.next (if_pos held)
  | _ => cases event

/-- In reset nothing is captured, so no transaction is taken (R183). -/
theorem captured_in_reset {s : State} (held : s.inReset = true) : s.captured = none := if_pos held

/-! ## The outputs in reset (R183) -/

/-- In reset attention is released and the receiver is off. -/
def OutputsOff (s : State) : Prop := s.inReset = true → s.port.attention = false ∧ s.time.receiverEnable = false

/-- A row taken leaves the outputs off in reset. -/
theorem outputsOff_exec {s : State} (off : OutputsOff s) (row : Instr) : Answer.Gives OutputsOff (exec row s) := by
  by_cases asserted : row = .resetLineAssert
  · subst asserted
    exact Answer.gives_next fun _ => ⟨rfl, rfl⟩
  cases held : s.inReset with
  | false =>
    intro t run inReset
    have out := blindInvariant_outOfReset.exec row asserted trivial held t run
    exact absurd (out.symm.trans inReset) nofun
  | true =>
    cases ends : encodeTransaction row with
    | some bytes =>
      rw [exec_transaction_not_taken (captured_in_reset held) ends]
      exact Answer.gives_next off
    | none =>
      cases event : isEvent row with
      | true =>
        rw [exec_event_in_reset held event]
        exact Answer.gives_next off
      | false =>
        cases row with
        | chipSelectFall => exact Answer.gives_next off
        | powerOn =>
          refine Answer.gives_next ?_
          rw [if_pos held]
          exact off
        | resetLineAssert => exact absurd rfl asserted
        | resetLineRelease =>
          refine Answer.gives_next ?_
          rw [if_pos held]
          exact nofun
        | settleExpiry | superframeStart | coolingExpiry | offerTurnTimeout | joinWindowStart | joinWindowEnd
        | turnStart | downlinkSent | plannedOpen | plannedClose | uplinkFrame | censusCompletion => cases event
        | _ => cases ends

/-- A tick of the clock moves nothing in reset, and does not assert the reset line. -/
theorem outputsOff_tickClock {s : State} (off : OutputsOff s) : OutputsOff s.tickClock := by
  cases held : s.inReset with
  | false =>
    intro inReset
    exact absurd ((blindInvariant_outOfReset.tickClock held).symm.trans inReset) nofun
  | true => rwa [State.tickClock, if_pos held]

/-! ## Attention and the two turn counts -/

theorem Port.InRange.sameBlocks {s t : State} (p : s.port.InRange) (same : SameBlocks s t) : t.port.InRange := by
  constructor
  · rw [same.attention, same.flags, same.mask]
    exact p.attention
  · exact same.skipped ▸ p.skipped
  · exact same.late ▸ p.late

/-- The operations of the walk keep the ranges of the port. -/
theorem blindInvariant_port : BlindInvariant (fun _ => True) (fun s => s.port.InRange) where
  same blocks _ p := Port.InRange.sameBlocks p blocks
  blind blocks p := Port.InRange.sameBlocks p blocks
  reset := ⟨by decide, Nat.zero_le _, Nat.zero_le _⟩
  port _ _ keeps p := keeps p
  limits _ _ _ p := p
  census _ _ _ p := p
  touch _ _ _ _ p := p
  takeUp _ _ _ _ _ _ _ p := p
  vacate s h outcome left p := by
    rw [vacate_frame]
    exact p
  rejoin s h supply p := by
    rw [rejoin_eq, rejoinFreed_frame]
    exact { p with attention := bne_iff_ne }
  acknowledge s h item refused p := by
    obtain ⟨t, changes, same | same⟩ := changesFields_acknowledgeItem s h item refused
    · rw [same, changes.frame]
      exact p
    · rw [same, changes.frame]
      exact { p with attention := bne_iff_ne }
  premise _ _ _ := trivial
  commit s edit seat _ _ _ p := by
    rw [applyCommit_frame]
    exact p
  build _ _ _ _ _ p := p

/-- The fall of the reset line clears the flags and releases attention (R180). -/
theorem Port.InRange.resetLineAssert {s : State} (p : s.port.InRange) :
    Answer.Gives (fun s => s.port.InRange) (execResetLineAssert s) :=
  Answer.gives_next { p with attention := (by decide : false = true ↔ (0#9) &&& 0#9 ≠ 0) }

theorem portInvariant_iff {s : State} : PortInvariant s ↔ s.port.InRange ∧ OutputsOff s :=
  ⟨fun p => ⟨⟨p.attention, p.skipped, p.late⟩, p.inReset⟩, fun ⟨p, off⟩ => ⟨p.attention, p.skipped, p.late, off⟩⟩

/-- Every step keeps what the statement says of the port. -/
theorem portInvariant_step {s t : State} (port : PortInvariant s) (run : step s = .next t) : PortInvariant t := by
  obtain ⟨inRange, off⟩ := portInvariant_iff.mp port
  refine portInvariant_iff.mpr
    ⟨blindInvariant_port.step trivial (fun _ _ => trivial) Port.InRange.resetLineAssert inRange run, ?_⟩
  unfold step at run
  split at run
  · cases run
    exact outputsOff_tickClock off
  case h_2 row rest _ =>
    have front : OutputsOff { s with pending := rest } := off
    exact outputsOff_exec front row t run

end Sys2Proof.Machine
end


section
/-! PROOFS. The link engine, its timing and the reply window inside its turn (R28, R32 to R34, R36, R37, R40, R51), the
second half of O54. -/

namespace Sys2Proof.Machine

/-! ## Parts of the invariant -/

/-- What says nothing new of the link engine keeps its invariant. -/
theorem LinkInvariant.kept {s t : State} (kept : LinkKept s t) (l : LinkInvariant s) : LinkInvariant t := by
  obtain ⟨⟨time, context, lateRef⟩, inReset⟩ := kept
  constructor <;> simp only [time, context, lateRef, inReset]
  exacts [l.still, l.settle, l.countdown, l.enable, l.drain, l.timing, l.pendingTiming, l.tick, l.window]

theorem blockInvariant_link : BlockInvariant (fun _ => True) LinkInvariant :=
  blockInvariant_of_linkKept LinkInvariant.kept

/-- The link engine keeps a schedule: it is neither STOPPED nor STARTING. -/
def State.scheduled (s : State) : Prop := ¬(s.time.link = .stopped ∨ s.time.link = .starting)

theorem scheduled_of_running {s : State} (running : s.time.link = .running) : s.scheduled := by
  rintro (stopped | starting)
  · exact absurd (running.symm.trans stopped) nofun
  · exact absurd (running.symm.trans starting) nofun

/-- A context is in being only while the link engine keeps a schedule (R51). -/
theorem LinkInvariant.scheduled {s : State} {context : TurnContext} (l : LinkInvariant s)
    (present : s.context = some context) : s.scheduled := by
  intro still
  obtain ⟨_, _, _, absent, _⟩ := l.still still
  exact absurd (present.symm.trans absent) nofun

/-- The settle countdown runs in STARTING alone (R36). -/
theorem LinkInvariant.settle_none {s : State} (l : LinkInvariant s) (link : s.time.link ≠ .starting) :
    s.time.settle = none :=
  Option.not_isSome_iff_eq_none.mp fun counting => link (l.settle.mp counting)

/-- The pending timing taken into use is in range (R31, R39, R40). -/
theorem LinkInvariant.nextTiming {s : State} (l : LinkInvariant s) :
    (s.time.pendingTiming.getD s.time.timing).inRange := by
  cases pending : s.time.pendingTiming with
  | none => exact l.timing
  | some timing => exact l.pendingTiming timing pending

theorem LinkTiming.inRange.turnLength_pos {t : LinkTiming} (h : t.inRange) : 0 < t.turnLength :=
  (by decide : 0 < 64).trans_le h.1

/-! ## Stopping -/

/-- STOPPED with a timing in range holds what it must (R38, R39). -/
theorem linkInvariant_halt {s : State} (timing : (s.time.pendingTiming.getD s.time.timing).inRange) :
    LinkInvariant s.halt where
  still _ := ⟨rfl, rfl, rfl, rfl, rfl, rfl⟩
  settle := by simp [State.halt, TimeBase.stop]
  countdown := nofun
  enable _ := by simp [State.halt, TimeBase.stop]
  drain := nofun
  timing := timing
  pendingTiming := nofun
  tick := timing.turnLength_pos
  window := nofun

theorem linkInvariant_initial (s : State) (cause : ResetCause) : LinkInvariant (s.initial cause) where
  still _ := ⟨rfl, rfl, rfl, rfl, rfl, rfl⟩
  settle := by simp [State.initial, State.reset]
  countdown := nofun
  enable _ := by simp [State.initial, State.reset]
  drain := nofun
  timing := (by decide : State.reset.time.timing.inRange)
  pendingTiming := nofun
  tick := (by decide : State.reset.time.tick < State.reset.time.timing.turnLength)
  window := nofun

/-! ## A schedule that goes on -/

/-- The planned points of a turn lie inside it (R32). -/
theorem LinkTiming.inRange.window {t : LinkTiming} (h : t.inRange) (offset : WindowOffset) :
    3 * t.turnLength ≤ 8 * t.openPoint offset ∧ t.openPoint offset < t.closePoint offset ∧
      8 * t.closePoint offset ≤ 7 * t.turnLength + 7 ∧ t.closePoint offset < t.turnLength := by
  obtain ⟨least, most, quarters, leastWindow, mostWindow⟩ := h
  cases offset <;> simp only [LinkTiming.closePoint, LinkTiming.openPoint, LinkTiming.windowLength] <;> omega

/-- From one state to the other the schedule goes on: the place, the tick count inside the turn, the turn context and the
late reference can change. -/
structure GoesOn (s t : State) : Prop where
  place : t.time = { s.time with slot := t.time.slot, position := t.time.position, tick := t.time.tick } := by rfl
  inReset : t.inReset = s.inReset := by rfl
  tick : t.time.tick < s.time.timing.turnLength

/-- A schedule that goes on keeps the invariant, if a drain still has its turn and a turn its window. -/
theorem LinkInvariant.goesOn {s t : State} (l : LinkInvariant s) (scheduled : s.scheduled) (on : GoesOn s t)
    (drain : s.time.link = .stopping →
      (∃ turn, t.context = some (.label turn)) ∨ ∃ turn, t.context = some (.offer turn))
    (window : ∀ turn, t.context = some (.label turn) →
      3 * s.time.timing.turnLength ≤ 8 * turn.plannedOpen ∧ turn.plannedOpen < turn.plannedClose ∧
        8 * turn.plannedClose ≤ 7 * s.time.timing.turnLength + 7 ∧ turn.plannedClose < s.time.timing.turnLength) :
    LinkInvariant t := by
  obtain ⟨place, inReset, tick⟩ := on
  have link : t.time.link = s.time.link := by rw [place]
  have timing : t.time.timing = s.time.timing := by rw [place]
  have settle : t.time.settle = s.time.settle := by rw [place]
  have receiver : t.time.receiverEnable = s.time.receiverEnable := by rw [place]
  have pending : t.time.pendingTiming = s.time.pendingTiming := by rw [place]
  constructor
  case still => exact fun still => absurd (link ▸ still) scheduled
  case tick => exact timing ▸ tick
  all_goals simp only [link, timing, settle, receiver, pending, inReset]
  exacts [l.settle, l.countdown, l.enable, drain, l.timing, l.pendingTiming, window]

/-- A schedule that goes on with the same context keeps the invariant. -/
theorem LinkInvariant.goesOn_same {s t : State} (l : LinkInvariant s) (scheduled : s.scheduled) (on : GoesOn s t)
    (context : t.context = s.context) : LinkInvariant t :=
  l.goesOn scheduled on (context ▸ l.drain) (context ▸ l.window)

/-- A schedule that goes on in RUNNING with no turn in flight keeps the invariant. -/
theorem LinkInvariant.goesOn_idle {s t : State} (l : LinkInvariant s) (running : s.time.link = .running)
    (on : GoesOn s t) (idle : ∀ turn, t.context ≠ some (.label turn)) : LinkInvariant t :=
  l.goesOn (scheduled_of_running running) on (fun stopping => absurd (running.symm.trans stopping) nofun)
    (fun turn label => absurd label (idle turn))

/-- A turn that closes ends a drain, or leaves the schedule to go on (R37, R38). -/
theorem LinkInvariant.endDrain {s t : State} (l : LinkInvariant s) (scheduled : s.scheduled) (on : GoesOn s t)
    (closed : t.context = none) : LinkInvariant t.endDrain := by
  have link : t.time.link = s.time.link := by rw [on.place]
  unfold State.endDrain
  split
  · refine .kept (s := t.halt) {} (linkInvariant_halt ?_)
    rw [on.place]
    exact l.nextTiming
  case isFalse goes =>
    exact l.goesOn scheduled on (fun stopping => absurd (link.trans stopping) goes)
      (fun turn label => absurd (closed.symm.trans label) nofun)

/-- What the operations on the records leave in between does not matter at the close of a turn. -/
theorem LinkInvariant.endDrain_kept {s t u : State} (l : LinkInvariant s) (scheduled : s.scheduled) (on : GoesOn s t)
    (closed : t.context = none) (kept : LinkKept t u) : LinkInvariant u.endDrain := by
  refine l.endDrain scheduled ⟨?_, kept.inReset.trans on.inReset, ?_⟩ (kept.context.trans closed)
  · rw [kept.time]
    exact on.place
  · rw [kept.time]
    exact on.tick

/-! ## The close of a turn -/

section
variable {s : State} (l : LinkInvariant s)
include l

theorem LinkInvariant.closeTurn (scheduled : s.scheduled) (turn : LabelTurn) (outcome : TurnOutcome) :
    LinkInvariant (s.closeTurn turn outcome) := by
  let closed : State := { s with context := none }
  have inv := blockInvariant_linkKept closed
  have claimed := inv.countCensus outcome (inv.applyClose (s := closed) turn outcome {})
  exact l.endDrain_kept scheduled (t := closed) { tick := l.tick } rfl claimed

theorem LinkInvariant.closeSkipped (scheduled : s.scheduled) : LinkInvariant s.closeSkipped :=
  l.endDrain_kept scheduled (t := { s with context := none }) { tick := l.tick } rfl {}

theorem LinkInvariant.closeNone (scheduled : s.scheduled) (turn : LabelTurn) : LinkInvariant (s.closeNone turn) := by
  have late : LinkInvariant { s with lateRef := some { address := linkAddress turn.handle, tag := turn.tag } } :=
    l.goesOn_same scheduled { tick := l.tick } rfl
  exact late.closeTurn scheduled turn .noReply

/-- The tick count can be brought to a point of the turn in flight. -/
theorem LinkInvariant.reachTick {n : Nat} (scheduled : s.scheduled) (inside : n < s.time.timing.turnLength) :
    LinkInvariant (s.reachTick n) :=
  l.goesOn_same scheduled { tick := max_lt l.tick inside } rfl

/-- The phase of the turn in flight can change. -/
theorem LinkInvariant.phase {turn : LabelTurn} (label : s.context = some (.label turn)) (phase : Phase) :
    LinkInvariant { s with context := some (.label { turn with phase := phase }) } := by
  refine l.goesOn (l.scheduled label) { tick := l.tick } (fun _ => .inl ⟨_, rfl⟩) ?_
  rintro _ ⟨⟩
  exact l.window turn label

/-! ## Starts -/

/-- An offer turn start in RUNNING builds an OFFER at most. -/
theorem LinkInvariant.offerTurnStart (running : s.time.link = .running) : LinkInvariant s.offerTurnStart := by
  by_cases queue : s.offerQueue = []
  · rwa [offerTurnStart_idle queue]
  · cases ready : s.ready with
    | false =>
      rw [offerTurnStart_skipped queue ready]
      exact blockInvariant_link.skipTurn l
    | true =>
      rw [offerTurnStart_offers queue ready, State.offerHead]
      have dropped := blockInvariant_link.dropExhausted s.offerQueue l
      have kept := (blockInvariant_linkKept s).dropExhausted s.offerQueue {}
      split
      · exact dropped
      · exact dropped.goesOn_idle (kept.time ▸ running) { tick := dropped.tick } nofun

/-- A superframe start takes the pending timing into use (R31). -/
theorem LinkInvariant.beginSuperframe (running : s.time.link = .running) (idle : s.context = none) (ready : Bool) :
    LinkInvariant (s.beginSuperframe ready) := by
  have started : LinkInvariant
      { s with time := s.time.nextSuperframe, seats := coolSeats s.seats, lateRef := none, ready := ready } :=
    { still := fun still => absurd still (scheduled_of_running running)
      settle := l.settle
      countdown := l.countdown
      enable := l.enable
      drain := fun stopping => absurd (running.symm.trans stopping) nofun
      timing := l.nextTiming
      pendingTiming := nofun
      tick := l.nextTiming.turnLength_pos
      window := fun turn label => absurd (idle.symm.trans label) nofun }
  exact started.offerTurnStart running

theorem LinkInvariant.startTurn (running : s.time.link = .running) (n : SeatNo) (ready : Bool) :
    LinkInvariant (s.startTurn n ready) := by
  have placed : LinkInvariant { s.moveTo (seatSlot n) (seatPosition n) with lateRef := none, ready := ready } :=
    l.goesOn_same (scheduled_of_running running) { tick := l.timing.turnLength_pos } rfl
  unfold State.startTurn
  simp only
  split
  · unfold State.startHeldTurn
    simp only
    split
    · split
      · refine placed.goesOn (scheduled_of_running running) { tick := placed.tick }
          (fun stopping => absurd (running.symm.trans stopping) nofun) ?_
        rintro _ ⟨⟩
        exact l.timing.window _
      · exact blockInvariant_link.skipTurn placed
    · exact placed
  all_goals exact placed

/-- The settle countdown expires into RUNNING (R36). -/
theorem LinkInvariant.settled (starting : s.time.link = .starting) (ready : Bool) :
    LinkInvariant (s.settled ready) := by
  obtain ⟨slot, position, tick, context, lateRef, pending⟩ := l.still (.inr starting)
  have running : LinkInvariant { s with time := { s.time with link := .running, settle := none } } :=
    { still := by rintro (⟨⟨⟩⟩ | ⟨⟨⟩⟩)
      settle := ⟨nofun, nofun⟩
      countdown := nofun
      enable := fun out => ⟨nofun, fun _ => (l.enable out).mpr (starting ▸ nofun)⟩
      drain := nofun
      timing := l.timing
      pendingTiming := l.pendingTiming
      tick := l.tick
      window := l.window }
  exact (blockInvariant_link.setFlag .linkState running).beginSuperframe rfl context ready

/-! ## Frames -/

theorem LinkInvariant.takeFrame (frame : Decoded) : LinkInvariant (s.takeFrame frame) := by
  unfold State.takeFrame
  split
  case h_1 turn label =>
    split
    · cases frame with
      | damaged => exact l.closeTurn (l.scheduled label) turn .damaged
      | ack address tag contents corrected =>
        simp only [State.takeReply]
        split
        · exact l.closeTurn (l.scheduled label) turn _
        · exact l
      | join address serial supply corrected => exact l
      | other => exact l
    · exact l
  · exact blockInvariant_link.takeJoinFrame frame l
  · exact l
  · exact blockInvariant_link.takeLate frame l

/-! ## The clock -/

theorem LinkInvariant.tickSettle (starting : s.time.link = .starting) : LinkInvariant s.tickSettle := by
  unfold State.tickSettle
  split
  · exact l
  case h_2 n counting =>
    have counted : LinkInvariant { s with time := { s.time with settle := some (min (n + 1) Config.settleTicks) } } :=
      { l with
        settle := ⟨fun _ => starting, fun _ => rfl⟩
        countdown := by
          rintro _ ⟨⟩
          exact Nat.min_le_right _ _ }
    simp only
    split
    · exact .kept {} counted
    · exact counted

theorem LinkInvariant.tickSchedule (scheduled : s.scheduled) : LinkInvariant s.tickSchedule := by
  unfold State.tickSchedule
  split
  case isTrue inside => exact l.goesOn_same scheduled { tick := inside } rfl
  case isFalse =>
    unfold State.nextTurn
    simp only
    generalize (if s.time.link = .running then _ else _ : List Instr) = events
    split
    · exact l.goesOn_same scheduled { tick := l.timing.turnLength_pos } rfl
    · exact .kept {} l

theorem LinkInvariant.tickClock : LinkInvariant s.tickClock := by
  unfold State.tickClock
  split
  · exact l
  · split
    case h_1 => exact l
    case h_2 link => exact l.tickSettle link
    case h_3 link => exact l.tickSchedule (scheduled_of_running link)
    case h_4 link => exact l.tickSchedule (by simp [State.scheduled, link])

/-! ## Commands -/

omit l in
/-- A link timing that SET LINK TIMING accepts is in range (R40). -/
theorem linkTiming?_some {turnLength replyWindow : Nat} {admission : Option Bool} {timing : LinkTiming}
    (chosen : linkTiming? turnLength replyWindow admission = some timing) : timing.inRange := by
  unfold linkTiming? at chosen
  split at chosen
  case isTrue inRange =>
    obtain ⟨openFlag, _, rfl⟩ := Option.map_eq_some_iff.mp chosen
    exact inRange
  case isFalse => cases chosen

theorem LinkInvariant.setTiming {timing : LinkTiming} (inRange : timing.inRange) :
    LinkInvariant { s with time := s.time.setTiming timing } := by
  unfold TimeBase.setTiming
  split
  case h_1 link | h_2 link =>
    obtain ⟨slot, position, tick, context, lateRef, pending⟩ := l.still (by simp [link])
    exact { l with
      timing := inRange
      tick := tick ▸ inRange.turnLength_pos
      window := fun turn label => absurd (context.symm.trans label) nofun }
  case h_3 link | h_4 link =>
    exact { l with
      still := fun still => absurd still (by simp [link])
      pendingTiming := by
        rintro _ ⟨⟩
        exact inRange }

theorem LinkInvariant.startSettle (stopped : s.time.link = .stopped) :
    LinkInvariant { s with time := { s.time with link := .starting, settle := some 0, receiverEnable := true } } :=
  { l with
    still := fun _ => l.still (.inl stopped)
    settle := ⟨fun _ => rfl, fun _ => rfl⟩
    countdown := by
      rintro _ ⟨⟩
      exact Nat.zero_le _
    enable := fun _ => ⟨nofun, fun _ => rfl⟩
    drain := nofun }

/-- A drain keeps the schedule of its turn (R37). -/
theorem LinkInvariant.startDrain (running : s.time.link = .running)
    (turn : (∃ turn, s.context = some (.label turn)) ∨ ∃ turn, s.context = some (.offer turn)) :
    LinkInvariant { s with time := { s.time with link := .stopping } } :=
  { l with
    still := by rintro (⟨⟨⟩⟩ | ⟨⟨⟩⟩)
    settle := ⟨fun counting => absurd (running.symm.trans (l.settle.mp counting)) nofun, nofun⟩
    enable := fun out => ⟨nofun, fun _ => (l.enable out).mpr (running ▸ nofun)⟩
    drain := fun _ => turn }

theorem LinkInvariant.stopLink : LinkInvariant s.stopLink := by
  have halted : LinkInvariant s.halt := linkInvariant_halt l.nextTiming
  unfold State.stopLink
  split
  · exact l
  · exact halted
  case h_3 running =>
    split
    case h_1 turn label => exact l.startDrain running (.inl ⟨turn, label⟩)
    case h_2 turn offer => exact l.startDrain running (.inr ⟨turn, offer⟩)
    · exact .kept (s := s.halt) {} halted
    · exact .kept (s := s.halt) {} halted
  · exact l

end

/-! ## Rows and steps -/

/-- The rows that act on the link engine keep its invariant. -/
theorem LinkInvariant.exec_moves {s : State} (l : LinkInvariant s) {row : Instr} (moves : movesLink row = true) :
    Answer.Gives LinkInvariant (exec row s) := by
  cases row with
  | setLinkTiming params =>
    refine blockInvariant_link.command params (fun _ l => ?_) trivial l
    split
    · split
      · exact blockInvariant_link.refuse _ l
      case h_2 timing chosen => exact blockInvariant_link.accept (l.setTiming (linkTiming?_some chosen))
    · exact blockInvariant_link.refuse _ l
  | startLink params =>
    refine blockInvariant_link.command0 params (fun _ l => ?_) trivial l
    split
    case h_1 stopped => exact blockInvariant_link.accept (l.startSettle stopped)
    · exact blockInvariant_link.accept l
    · exact blockInvariant_link.accept l
    · exact blockInvariant_link.refuse _ l
  | stopLink params => exact blockInvariant_link.command0 params (fun _ l => .kept {} l.stopLink) trivial l
  | resetCommand params =>
    refine blockInvariant_link.command0 params (fun {s} _ l => ?_) trivial l
    exact .kept (s := s.halt) {} (linkInvariant_halt l.nextTiming)
  | powerOn =>
    refine Answer.gives_next ?_
    split
    · exact .kept {} l
    · exact linkInvariant_initial s _
  | resetLineAssert => exact Answer.gives_next { l with enable := nofun }
  | resetLineRelease =>
    refine Answer.gives_next ?_
    split
    · exact linkInvariant_initial s _
    · exact l
  | settleExpiry ready =>
    change Answer.Gives LinkInvariant (execSettleExpiry ready s)
    unfold execSettleExpiry
    refine BlockInvariant.event (fun l => ?_) l
    split
    case isTrue starting => exact l.settled starting ready
    · exact l
  | superframeStart ready =>
    change Answer.Gives LinkInvariant (execSuperframeStart ready s)
    unfold execSuperframeStart
    refine BlockInvariant.event (fun l => ?_) l
    split
    case isTrue still => exact l.beginSuperframe still.1 still.2 ready
    · exact l
  | offerTurnTimeout =>
    change Answer.Gives LinkInvariant (execOfferTurnTimeout s)
    unfold execOfferTurnTimeout
    refine BlockInvariant.event (fun {s} l => ?_) l
    split
    case h_1 turn offer =>
      exact l.endDrain_kept (l.scheduled offer) (t := { s.moveTo 0 1 with context := none })
        { tick := l.timing.turnLength_pos } rfl {}
    all_goals exact l
  | joinWindowStart =>
    change Answer.Gives LinkInvariant (execJoinWindowStart s)
    unfold execJoinWindowStart
    refine BlockInvariant.event (fun {s} l => ?_) l
    split
    case isTrue window =>
      split
      · exact l.goesOn_idle window.1 { tick := l.timing.turnLength_pos } nofun
      · exact l.goesOn_idle window.1 { tick := l.timing.turnLength_pos } nofun
      · exact l
      · exact l
    · exact l
  | joinWindowEnd =>
    change Answer.Gives LinkInvariant (execJoinWindowEnd s)
    unfold execJoinWindowEnd
    refine BlockInvariant.event (fun {s} l => ?_) l
    split
    case h_1 n join =>
      refine l.goesOn (l.scheduled join) { tick := l.tick } (fun stopping => ?_) nofun
      obtain ⟨turn, label⟩ | ⟨turn, offer⟩ := l.drain stopping
      · exact absurd (join.symm.trans label) nofun
      · exact absurd (join.symm.trans offer) nofun
    all_goals exact l
  | turnStart seat ready =>
    change Answer.Gives LinkInvariant (execTurnStart seat ready s)
    unfold execTurnStart
    refine BlockInvariant.event (fun l => ?_) l
    split
    case isTrue still => exact l.startTurn still.1 seat ready
    · exact l
  | downlinkSent =>
    change Answer.Gives LinkInvariant (execDownlinkSent s)
    unfold execDownlinkSent
    refine BlockInvariant.event (fun {s} l => ?_) l
    split
    case h_1 turn label =>
      split
      · have moved := l.phase label (s.phaseAfterSent turn)
        unfold State.labelSent
        simp only
        split
        · exact .kept {} moved
        · exact moved
      · exact l
    case h_2 turn offer =>
      have inv := blockInvariant_linkKept { s with context := none }
      exact l.endDrain_kept (l.scheduled offer) (t := { s with context := none }) { tick := l.tick } rfl
        (inv.countOffer turn {})
    all_goals exact l
  | plannedOpen =>
    change Answer.Gives LinkInvariant (execPlannedOpen s)
    unfold execPlannedOpen
    refine BlockInvariant.event (fun {s} l => ?_) l
    split
    case h_1 turn label =>
      obtain ⟨_, before, _, inside⟩ := l.window turn label
      have reached := l.reachTick (l.scheduled label) (before.trans inside)
      split
      · exact reached.phase label .listening
      · exact reached
      · exact l
    all_goals exact l
  | plannedClose =>
    change Answer.Gives LinkInvariant (execPlannedClose s)
    unfold execPlannedClose
    refine BlockInvariant.event (fun {s} l => ?_) l
    split
    case h_1 turn label =>
      obtain ⟨_, _, _, inside⟩ := l.window turn label
      have reached := l.reachTick (l.scheduled label) inside
      split
      · exact reached.closeSkipped (l.scheduled label)
      · exact l
      · exact reached.closeNone (l.scheduled label) turn
    all_goals exact l
  | uplinkFrame frame =>
    exact BlockInvariant.event (fun l => l.takeFrame _) l
  | _ => cases moves

/-- Every step keeps the invariant of the link engine. -/
theorem LinkInvariant.step {s t : State} (l : LinkInvariant s) (run : step s = .next t) : LinkInvariant t := by
  unfold Machine.step at run
  split at run
  · cases run
    exact l.tickClock
  case h_2 row rest _ =>
    have front : LinkInvariant { s with pending := rest } := .kept {} l
    cases moves : movesLink row with
    | true => exact front.exec_moves moves t run
    | false => exact blockInvariant_link.exec row moves trivial front t run

/-- Settles O54: the port by the walk over the rows, the link engine by the rows that act on it. -/
theorem stepKeepsPortAndLink : Obligations.StepKeepsPortAndLink :=
  ⟨fun _ _ => portInvariant_step, fun _ _ => LinkInvariant.step⟩

end Sys2Proof.Machine
end


section
/-! PROOFS. Field lists are in order and the cells in use are those of the entries (R15, R18, R81): O58. -/

namespace Sys2Proof.Machine

/-- Field lists and cells are in order. -/
structure FieldsInOrder (s : State) : Prop where
  fields : FieldInvariant s
  cells : CellInvariant s

theorem cellOf_congr (s : State) {e f : FieldEntry} (same : e.cell = f.cell) : s.cellOf e = s.cellOf f :=
  congrArg (fun c : CellNo => s.cells[c.val]) same

/-! ## A record whose field list changes -/

/-- From one state to the other the field list of one record changes as R15, R18 and R81 allow: an entry stays with its
id and its cell, or takes a cell that was free; the cell of an entry that goes returns. -/
structure Refits (h : Handle) (s t : State) : Prop where
  others : ∀ k, k ≠ h → t.record k = s.record k
  room : (t.record h).fields.length ≤ 6
  order : ((t.record h).fields.map FieldEntry.id).Pairwise (· < ·)
  vacant : (t.record h).state = .free → (t.record h).fields = []
  named : ∀ f ∈ (t.record h).fields, f.id ≠ 0
  removing : ∀ f ∈ (t.record h).fields, f.removing = true → f.sent = true
  owned : ∀ f ∈ (t.record h).fields, ∃ v, t.cellOf f = some v ∧ 1 ≤ v.length ∧ v.length ≤ 12
  apart : ∀ f ∈ (t.record h).fields, ∀ g ∈ (t.record h).fields, f.cell = g.cell → f = g
  source : ∀ f ∈ (t.record h).fields, s.cellOf f = none ∨ ∃ e ∈ (s.record h).fields, e.cell = f.cell
  kept : ∀ c : CellNo, (∀ e ∈ (s.record h).fields, e.cell ≠ c) → (∀ f ∈ (t.record h).fields, f.cell ≠ c) →
    t.cells[c.val] = s.cells[c.val]
  freed : ∀ e ∈ (s.record h).fields, (∀ f ∈ (t.record h).fields, f.cell ≠ e.cell) → t.cellOf e = none

namespace Refits

variable {h : Handle} {s t : State} (r : Refits h s t)
include r

theorem everyRecord {p : Record → Prop} (old : ∀ k, p (s.record k)) (new : p (t.record h)) (k : Handle) :
    p (t.record k) := by
  by_cases same : k = h
  · exact same ▸ new
  · exact r.others k same ▸ old k

theorem fieldInvariant (i : FieldInvariant s) : FieldInvariant t where
  room := r.everyRecord (p := fun q => q.fields.length ≤ 6) i.room r.room
  order := r.everyRecord (p := fun q => (q.fields.map FieldEntry.id).Pairwise (· < ·)) i.order r.order
  named := r.everyRecord (p := fun q => ∀ e ∈ q.fields, e.id ≠ 0) i.named r.named
  vacant := r.everyRecord (p := fun q => q.state = .free → q.fields = []) i.vacant r.vacant
  removing := r.everyRecord (p := fun q => ∀ e ∈ q.fields, e.removing = true → e.sent = true) i.removing r.removing

/-- The cell of another record's entry is neither an old nor a new cell of the record. -/
theorem cell_ne (c : CellInvariant s) {k : Handle} (other : k ≠ h) {e f : FieldEntry} (he : e ∈ (s.record k).fields)
    (hf : f ∈ (t.record h).fields) : f.cell ≠ e.cell := by
  intro same
  obtain free | ⟨old, mem, cell⟩ := r.source f hf
  · obtain ⟨v, value, _⟩ := c.owned k e he
    rw [cellOf_congr s same] at free
    exact absurd (free.symm.trans value) nofun
  · exact other (c.apart h k old mem e he (cell.trans same)).1.symm

theorem cellInvariant (c : CellInvariant s) : CellInvariant t where
  owned k e he := by
    by_cases same : k = h
    · subst same
      exact r.owned e he
    · rw [r.others k same] at he
      have kept : t.cellOf e = s.cellOf e :=
        r.kept e.cell (fun old mem cell => same (c.apart h k old mem e he cell).1.symm)
          (fun f hf => r.cell_ne c same he hf)
      exact kept ▸ c.owned k e he
  apart k l e he f hf cell := by
    by_cases sameK : k = h <;> by_cases sameL : l = h
    · subst sameK sameL
      exact ⟨rfl, r.apart e he f hf cell⟩
    · subst sameK
      rw [r.others l sameL] at hf
      exact absurd cell (r.cell_ne c sameL hf he)
    · subst sameL
      rw [r.others k sameK] at he
      exact absurd cell.symm (r.cell_ne c sameK he hf)
    · rw [r.others k sameK] at he
      rw [r.others l sameL] at hf
      exact c.apart k l e he f hf cell
  used cell v value := by
    by_cases now : ∃ f ∈ (t.record h).fields, f.cell = cell
    · exact ⟨h, now⟩
    · have gone : ∀ f ∈ (t.record h).fields, f.cell ≠ cell := fun f hf same => now ⟨f, hf, same⟩
      have never : ∀ e ∈ (s.record h).fields, e.cell ≠ cell := by
        rintro e he rfl
        exact absurd ((r.freed e he gone).symm.trans value) nofun
      obtain ⟨k, e, he, same⟩ := c.used cell v ((r.kept cell never gone).symm.trans value)
      have other : k ≠ h := by
        rintro rfl
        exact never e he same
      exact ⟨k, e, r.others k other ▸ he, same⟩

theorem inOrder (i : FieldsInOrder s) : FieldsInOrder t := ⟨r.fieldInvariant i.fields, r.cellInvariant i.cells⟩

end Refits

/-! ## Field lists that stay, and field lists whose entries stay or go -/

/-- Where no field list and no cell changes and no record becomes FREE, field lists and cells stay in order. -/
theorem FieldsInOrder.congr {s t : State} (i : FieldsInOrder s) (fields : ∀ k, (t.record k).fields = (s.record k).fields)
    (free : ∀ k, (t.record k).state = .free → (s.record k).state = .free) (cells : t.cells = s.cells) :
    FieldsInOrder t := by
  obtain ⟨f, c⟩ := i
  refine ⟨⟨?_, ?_, ?_, ?_, ?_⟩, ⟨?_, ?_, ?_⟩⟩ <;> simp only [fields, State.cellOf, cells]
  exacts [f.room, f.order, f.named, fun k vacant => f.vacant k (free k vacant), f.removing, c.owned, c.apart, c.used]

/-- A field list is cut down and its entries change, each with its id and its cell; the cells of those that go return. -/
theorem refits_filter_map {h : Handle} {s t : State} (i : FieldsInOrder s) (stays : FieldEntry → Bool)
    (change : FieldEntry → FieldEntry) (others : ∀ k, k ≠ h → t.record k = s.record k)
    (fields : (t.record h).fields = ((s.record h).fields.filter stays).map change)
    (vacant : (t.record h).state = .free → (t.record h).fields = [])
    (id : ∀ e, (change e).id = e.id) (cell : ∀ e, (change e).cell = e.cell)
    (removing : ∀ e ∈ (s.record h).fields, stays e = true → (change e).removing = true → (change e).sent = true)
    (freed : ∀ e ∈ (s.record h).fields, stays e = false → t.cellOf e = none)
    (kept : ∀ c : CellNo, (∀ e ∈ (s.record h).fields, stays e = false → e.cell ≠ c) → t.cells[c.val] = s.cells[c.val]) :
    Refits h s t := by
  have old : ∀ f ∈ (t.record h).fields, ∃ e ∈ (s.record h).fields, stays e = true ∧ change e = f := by
    intro f hf
    rw [fields, List.mem_map] at hf
    obtain ⟨e, he, rfl⟩ := hf
    exact ⟨e, (List.mem_filter.mp he).1, (List.mem_filter.mp he).2, rfl⟩
  have sameCell : ∀ e ∈ (s.record h).fields, ∀ f ∈ (s.record h).fields, e.cell = f.cell → e = f :=
    fun e he f hf same => (i.cells.apart h h e he f hf same).2
  have stay : ∀ e ∈ (s.record h).fields, stays e = true → t.cellOf e = s.cellOf e := by
    intro e he here
    refine kept e.cell fun f hf gone same => ?_
    rw [sameCell f hf e he same, here] at gone
    cases gone
  constructor
  case others => exact others
  case vacant => exact vacant
  case room =>
    rw [fields, List.length_map]
    exact (List.length_filter_le _ _).trans (i.fields.room h)
  case order =>
    have ids : (fun e => (change e).id) = FieldEntry.id := funext id
    rw [fields, List.map_map, Function.comp_def, ids]
    exact (i.fields.order h).sublist (List.filter_sublist.map _)
  case named =>
    intro f hf
    obtain ⟨e, he, _, rfl⟩ := old f hf
    exact id e ▸ i.fields.named h e he
  case removing =>
    intro f hf
    obtain ⟨e, he, here, rfl⟩ := old f hf
    exact removing e he here
  case owned =>
    intro f hf
    obtain ⟨e, he, here, rfl⟩ := old f hf
    rw [cellOf_congr t (cell e), stay e he here]
    exact i.cells.owned h e he
  case apart =>
    intro f hf g hg same
    obtain ⟨e, he, _, rfl⟩ := old f hf
    obtain ⟨d, hd, _, rfl⟩ := old g hg
    rw [cell, cell] at same
    rw [sameCell e he d hd same]
  case source =>
    intro f hf
    obtain ⟨e, he, _, rfl⟩ := old f hf
    exact .inr ⟨e, he, (cell e).symm⟩
  case kept => exact fun c never _ => kept c fun e he _ => never e he
  case freed =>
    intro e he gone
    refine freed e he (Bool.eq_false_iff.mpr fun here => gone (change e) ?_ (cell e))
    rw [fields]
    exact List.mem_map_of_mem (List.mem_filter.mpr ⟨he, here⟩)

/-- The entries of a field list change, each with its id and its cell. -/
theorem FieldsInOrder.map {h : Handle} {s t : State} (i : FieldsInOrder s) (change : FieldEntry → FieldEntry)
    (others : ∀ k, k ≠ h → t.record k = s.record k)
    (fields : (t.record h).fields = (s.record h).fields.map change)
    (free : (t.record h).state = .free → (s.record h).state = .free) (cells : t.cells = s.cells)
    (id : ∀ e, (change e).id = e.id) (cell : ∀ e, (change e).cell = e.cell)
    (removing : ∀ e ∈ (s.record h).fields, (change e).removing = true → (change e).sent = true) : FieldsInOrder t := by
  refine (refits_filter_map i (fun _ => true) change others ?_ ?_ id cell (fun e he _ => removing e he) nofun ?_).inOrder i
  · rw [fields, List.filter_true]
  · intro vacant
    rw [fields, i.fields.vacant h (free vacant), List.map_nil]
  · intro c _
    rw [cells]

/-! ## The fields of a commit -/

section
variable {s : State} {h : Handle} {ops : List StagedOp}

/-- The last operation that names a field id is one of the list. -/
theorem lastNaming_mem {id : FieldId} {op : StagedOp} (last : lastNaming id ops = some op) : op ∈ ops :=
  List.mem_reverse.mp (List.mem_of_find?_eq_some last)

/-- What a commit makes of an entry is REMOVING only if it was sent (R75, R76). -/
theorem entryFate_removing {e f : FieldEntry} (removing : e.removing = true → e.sent = true)
    (left : (s.entryFate h ops e).entry? = some f) : f.removing = true → f.sent = true := by
  unfold State.entryFate at left
  split at left
  · cases left
    exact removing
  · split at left
    · cases left
      exact nofun
    · split at left
      · cases left
        exact removing
      · cases left
        exact removing
  · split at left
    · cases left
      exact removing
    · split at left
      case isTrue sent =>
        cases left
        exact fun _ => sent
      · cases left

/-- A value that a commit writes is that of a SET on the list. -/
theorem entryFate_written {e f : FieldEntry} {value : List Byte} (written : s.entryFate h ops e = .written f value) :
    .set e.id value ∈ ops := by
  have last : lastFieldOp e.id ops = some (.set value) := by
    unfold State.entryFate at written
    split at written
    · cases written
    case h_2 last =>
      split at written
      · cases written
        exact last
      · split at written
        · cases written
        · cases written
          exact last
    · split at written
      · cases written
      · split at written <;> cases written
  exact lastNaming_mem (lastFieldOp_set.mp last)

/-- The checks that a commit which is not refused has passed (R164). -/
theorem commitChoice_ok {seat : Option SeatNo} (choice : s.commitChoice h ops = .ok seat) :
    s.copySize h ops ≤ 6 ∧
      (createdFields (s.record h) ops).length ≤ s.freeCellCount + (s.droppedEntries h ops).length := by
  unfold State.commitChoice at choice
  split at choice
  · cases choice
  · split at choice
    · cases choice
    case isFalse size =>
      split at choice
      · cases choice
      case isFalse room => exact ⟨not_lt.mp size, not_lt.mp room⟩

/-- The entries of a record have cells in use, each its own. -/
structure OwnCells (h : Handle) (s : State) : Prop where
  used : ∀ e ∈ (s.record h).fields, s.cellOf e ≠ none
  apart : ∀ e ∈ (s.record h).fields, ∀ f ∈ (s.record h).fields, e.cell = f.cell → e = f

theorem OwnCells.createField (own : OwnCells h s) (id : FieldId) (value : List Byte) :
    OwnCells h (s.createField h id value) := by
  unfold State.createField
  split
  · exact own
  case h_2 c lowest =>
    have free := lowestFreeCell_some s lowest
    have fields : (((s.writeCell c value).modifyRecord h
        fun r => { r with fields := insertEntry (.new id c) r.fields }).record h).fields =
          insertEntry (.new id c) (s.record h).fields := by
        rw [State.modifyRecord, record_setRecord_self, record_writeCell]
    have cell (e : FieldEntry) : ((s.writeCell c value).modifyRecord h
        fun r => { r with fields := insertEntry (.new id c) r.fields }).cellOf e =
          if e.cell = c then some value else s.cellOf e := cells_writeCell s c e.cell value
    have old : ∀ e ∈ (s.record h).fields, e.cell ≠ c := by
      rintro e he rfl
      exact own.used e he free
    constructor
    · intro e he
      rw [cell]
      split
      · exact nofun
      case isFalse other =>
        rw [fields] at he
        obtain rfl | he := mem_insertEntry.mp he
        · exact absurd rfl other
        · exact own.used e he
    · intro e he f hf same
      rw [fields] at he hf
      obtain rfl | he := mem_insertEntry.mp he <;> obtain rfl | hf := mem_insertEntry.mp hf
      · rfl
      · exact absurd same.symm (old f hf)
      · exact absurd same (old e he)
      · exact own.apart e he f hf same

theorem OwnCells.createFields (fields : List (FieldId × List Byte)) :
    ∀ {s : State}, OwnCells h s → OwnCells h (s.createFields h fields) := by
  induction fields with
  | nil => exact fun own => own
  | cons f fields ih =>
    intro s own
    rw [State.createFields, List.foldl_cons]
    exact ih (own.createField f.1 f.2)

end

/-- `u` is `s` with the kept entries of a commit in the record, before the new fields are created: the cells of dropped
entries are back, and changed values are written. -/
structure CommitBase (h : Handle) (ops : List StagedOp) (s u : State) : Prop where
  fields : (u.record h).fields = s.committedEntries h ops
  count : u.freeCellCount = s.freeCellCount + (s.droppedEntries h ops).length
  fate : ∀ e ∈ (s.record h).fields, u.cellOf e = match s.entryFate h ops e with
    | .kept _ => s.cellOf e
    | .written _ value => some value
    | .dropped => none
  rest : ∀ c : CellNo, (∀ e ∈ (s.record h).fields, e.cell ≠ c) → u.cells[c.val] = s.cells[c.val]

namespace CommitBase

variable {h : Handle} {ops : List StagedOp} {s u : State} (base : CommitBase h ops s u) (i : FieldsInOrder s)
include base

/-- The entries are those that the commit keeps, each with the id and the cell that it had. -/
theorem entry {f : FieldEntry} (hf : f ∈ (u.record h).fields) :
    ∃ e ∈ (s.record h).fields, (s.entryFate h ops e).entry? = some f ∧ f.id = e.id ∧ f.cell = e.cell := by
  rw [base.fields] at hf
  obtain ⟨e, he, left⟩ := (mem_committedEntries s h ops).mp hf
  exact ⟨e, he, left, entryFate_kept_id s h ops left⟩

theorem absent {f : FieldId × List Byte} (hf : f ∈ createdFields (s.record h) ops) {e : FieldEntry}
    (he : e ∈ (u.record h).fields) : e.id ≠ f.1 := by
  intro same
  obtain ⟨d, hd, _, id, _⟩ := base.entry he
  obtain ⟨missing, _⟩ := mem_createdFields.mp hf
  have present : (s.record h).hasField f.1 = true :=
    List.any_eq_true.mpr ⟨d, hd, decide_eq_true (id.symm.trans same)⟩
  exact absurd (missing.symm.trans present) nofun

/-- The cell of an entry that the commit does not keep is back. -/
theorem dropped {e : FieldEntry} (he : e ∈ (s.record h).fields) (gone : ∀ f ∈ (u.record h).fields, f.cell ≠ e.cell) :
    u.cellOf e = none := by
  have left {f : FieldEntry} (left : (s.entryFate h ops e).entry? = some f) : False := by
    refine gone f ?_ (entryFate_kept_id s h ops left).2
    rw [base.fields]
    exact (mem_committedEntries s h ops).mpr ⟨e, he, left⟩
  have cell := base.fate e he
  cases fate : s.entryFate h ops e with
  | kept g => exact (left (by rw [fate]; rfl)).elim
  | written g value => exact (left (by rw [fate]; rfl)).elim
  | dropped => rwa [fate] at cell

include i

theorem createFields
    (room : (createdFields (s.record h) ops).length ≤ s.freeCellCount + (s.droppedEntries h ops).length) :
    FieldsCreated u (u.createFields h (createdFields (s.record h) ops)) h (createdFields (s.record h) ops) :=
  createFields_spec h _ u ((createdFields_ascending _ _).imp fun less => ne_of_lt less)
    (fun _ hf _ => base.absent hf)
    (base.fields ▸ committedEntries_ascending s h ops (i.fields.order h)) (base.count ▸ room)

/-- A kept entry has its own value in its cell, or the value of a SET. -/
theorem cell (inRange : ∀ op ∈ ops, op.inRange) {f : FieldEntry} (hf : f ∈ (u.record h).fields) :
    ∃ v, u.cellOf f = some v ∧ 1 ≤ v.length ∧ v.length ≤ 12 := by
  obtain ⟨e, he, left, _, same⟩ := base.entry hf
  have cell := base.fate e he
  rw [cellOf_congr u same]
  cases fate : s.entryFate h ops e with
  | kept g =>
    rw [fate] at cell
    exact cell ▸ i.cells.owned h e he
  | written g value =>
    rw [fate] at cell
    obtain ⟨_, least, most⟩ := inRange _ (entryFate_written fate)
    exact ⟨value, cell, least, most⟩
  | dropped =>
    rw [fate] at left
    cases left

theorem ownCells (inRange : ∀ op ∈ ops, op.inRange) : OwnCells h u where
  used f hf := by
    obtain ⟨v, value, _⟩ := base.cell i inRange hf
    exact value ▸ nofun
  apart f hf g hg same := by
    obtain ⟨e, he, leftF, _, cellF⟩ := base.entry hf
    obtain ⟨d, hd, leftG, _, cellG⟩ := base.entry hg
    obtain ⟨_, rfl⟩ := i.cells.apart h h e he d hd (cellF.symm.trans (same.trans cellG))
    exact Option.some.inj (leftF.symm.trans leftG)

end CommitBase

/-- A commit passes through such a state. -/
theorem commitFields_base {s : State} {h : Handle} {ops : List StagedOp} (i : FieldsInOrder s) :
    ∃ u, CommitBase h ops s u ∧ s.commitFields h ops = u.createFields h (createdFields (s.record h) ops) := by
  obtain ⟨u, create, _, _, record, count, fate, rest⟩ := commitFields_before s h ops i.fields i.cells
  exact ⟨u, ⟨by rw [record], count, fate, rest⟩, create⟩

/-- The size of a field list, counted by its ids. -/
theorem length_eq_countP {fields : List FieldEntry} (order : (fields.map FieldEntry.id).Pairwise (· < ·)) :
    fields.length = (List.finRange 16).countP fun id => fields.any fun e => decide (e.id = id) := by
  have counted := countP_fields fields order fun _ => true
  simp only [Bool.and_true, List.filter_true] at counted
  exact counted.symm

/-- After a commit the field list has the size of the working copy. -/
theorem CommittedFields.length_eq {s t : State} {h : Handle} {ops : List StagedOp} (i : FieldsInOrder s)
    (c : CommittedFields s t h ops) : (t.record h).fields.length = s.copySize h ops := by
  rw [length_eq_countP c.ascending, copySize_eq s h ops (i.fields.order h) (i.fields.removing h)]
  refine congrArg (fun p => List.countP p (List.finRange 16)) (funext fun id => Bool.eq_iff_iff.mpr ?_)
  simp only [List.any_eq_true, decide_eq_true_eq]
  exact c.present id

/-- A commit that passes its checks refits the field list of its record. -/
theorem refits_commitFields {s : State} {h : Handle} {ops : List StagedOp} (i : FieldsInOrder s)
    (occupied : (s.record h).state ≠ .free) (inRange : ∀ op ∈ ops, op.inRange) (size : s.copySize h ops ≤ 6)
    (room : (createdFields (s.record h) ops).length ≤ s.freeCellCount + (s.droppedEntries h ops).length) :
    Refits h s (s.commitFields h ops) := by
  obtain ⟨committed, frame, others, record⟩ := commitFields_spec s h ops i.fields i.cells room
  obtain ⟨u, base, create⟩ := commitFields_base (ops := ops) (h := h) i
  have created := base.createFields i room
  have own := (base.ownCells i inRange).createFields (createdFields (s.record h) ops)
  rw [← create] at created own
  generalize s.commitFields h ops = t at *
  have given {f : FieldId × List Byte} (hf : f ∈ createdFields (s.record h) ops) :
      f.1 ≠ 0 ∧ 1 ≤ f.2.length ∧ f.2.length ≤ 12 :=
    inRange _ (lastNaming_mem (mem_createdFields.mp hf).2)
  have free {c : CellNo} (before : u.cells[c.val] = none) (gone : ∀ f ∈ (t.record h).fields, f.cell ≠ c) :
      t.cells[c.val] = none := by
    by_contra used
    obtain ⟨f, hf, cell⟩ := created.free c before used
    exact gone f hf cell
  constructor
  case others => exact others
  case room => exact (committed.length_eq i).trans_le size
  case order => exact committed.ascending
  case vacant =>
    intro vacant
    rw [record] at vacant
    exact absurd vacant occupied
  case named =>
    intro f hf
    obtain old | ⟨g, hg, new, _⟩ := created.new f hf
    · obtain ⟨e, he, _, id, _⟩ := base.entry old
      exact id ▸ i.fields.named h e he
    · rw [new]
      exact (given hg).1
  case removing =>
    intro f hf
    obtain old | ⟨g, hg, new, _⟩ := created.new f hf
    · obtain ⟨e, he, left, _⟩ := base.entry old
      exact entryFate_removing (i.fields.removing h e he) left
    · rw [new]
      exact nofun
  case owned =>
    intro f hf
    obtain old | ⟨g, hg, _, _, value⟩ := created.new f hf
    · obtain ⟨v, value, range⟩ := base.cell i inRange old
      have same : t.cellOf f = u.cellOf f := created.used f.cell (by
        have value : u.cells[f.cell.val] = some v := value
        rw [value]
        exact nofun)
      exact ⟨v, same.trans value, range⟩
    · exact ⟨g.2, value, (given hg).2⟩
  case apart => exact own.apart
  case source =>
    intro f hf
    obtain old | ⟨g, hg, _, before, _⟩ := created.new f hf
    · obtain ⟨e, he, _, _, cell⟩ := base.entry old
      exact .inr ⟨e, he, cell.symm⟩
    · by_cases returned : ∃ e ∈ (s.record h).fields, e.cell = f.cell
      · exact .inr returned
      · have rest := base.rest f.cell fun e he same => returned ⟨e, he, same⟩
        exact .inl (rest.symm.trans before)
  case kept =>
    intro c never gone
    have before := base.rest c never
    by_cases used : u.cells[c.val] = none
    · rw [free used gone, ← before, used]
    · rw [created.used c used, before]
  case freed =>
    intro e he gone
    exact free (base.dropped he fun f hf => gone f (created.old f hf)) gone

/-! ## The operations of the walk -/

/-- Once its fields are committed a commit changes no field list, no record's state and no cell (R165). -/
theorem applyCommit_of_commitFields (s : State) (h : Handle) (ops : List StagedOp) (seat : Option SeatNo) :
    (∀ k, ((s.applyCommit h ops seat).record k).fields = ((s.commitFields h ops).record k).fields) ∧
      (∀ k, ((s.applyCommit h ops seat).record k).state = ((s.commitFields h ops).record k).state) ∧
      (s.applyCommit h ops seat).cells = (s.commitFields h ops).cells := by
  unfold State.applyCommit
  generalize s.commitFields h ops = t
  have others {k : Handle} (other : k ≠ h) :
      (((t.commitSeat h seat).modifyRecord h fun r =>
        (r.commitMode (lastMode ops)).commitPeriod (lastPeriod ops)).closeEdit).record k = t.record k := by
    rw [record_closeEdit, State.modifyRecord, record_setRecord_ne _ _ other, (actsOn_commitSeat t h seat).others k other]
  have own :
      (((t.commitSeat h seat).modifyRecord h fun r =>
        (r.commitMode (lastMode ops)).commitPeriod (lastPeriod ops)).closeEdit).record h =
          (((t.commitSeat h seat).record h).commitMode (lastMode ops)).commitPeriod (lastPeriod ops) := by
    rw [record_closeEdit, State.modifyRecord, record_setRecord_self]
  refine ⟨fun k => ?_, fun k => ?_, ?_⟩
  · by_cases same : k = h
    · rw [same, own, commitSeat_record]
      cases lastPeriod ops <;> rfl
    · rw [others same]
  · by_cases same : k = h
    · rw [same, own, commitSeat_record]
      cases lastPeriod ops <;> rfl
    · rw [others same]
  · show (t.commitSeat h seat).cells = t.cells
    rw [commitSeat_frame]

section
variable {s : State} (i : FieldsInOrder s)
include i

theorem FieldsInOrder.applyCommit {edit : EditContext} {seat : Option SeatNo} (e : EditInvariant s)
    (editing : s.edit = some edit) (choice : s.commitChoice edit.handle edit.ops = .ok seat) :
    FieldsInOrder (s.applyCommit edit.handle edit.ops seat) := by
  obtain ⟨occupied, _, _, inRange⟩ := e edit editing
  obtain ⟨size, room⟩ := commitChoice_ok choice
  obtain ⟨fields, states, cells⟩ := applyCommit_of_commitFields s edit.handle edit.ops seat
  exact ((refits_commitFields i occupied inRange size room).inOrder i).congr fields
    (fun k free => (states k).symm.trans free) cells

theorem FieldsInOrder.vacate (h : Handle) (outcome : ReleaseOutcome) (left : Seat) :
    FieldsInOrder (s.vacate h outcome left) := by
  have freed (c : CellNo) : (s.vacate h outcome left).cells[c.val] =
      if c ∈ (s.record h).fields.map FieldEntry.cell then none else s.cells[c.val] := by
    have cells : (s.vacate h outcome left).cells = (s.freeCellsOf (s.record h).fields).cells := by
      simp only [State.vacate, setRecord_cells, leaveOfferQueue_cells, setSeat?_cells]
    rw [cells]
    exact cells_freeCellsOf _ s c
  refine (refits_filter_map i (fun _ => false) id (actsOn_vacate s outcome left).others ?_ ?_ (fun _ => rfl)
    (fun _ => rfl) (fun e he _ => i.fields.removing h e he) ?_ ?_).inOrder i
  · rw [vacate_record, List.filter_false]
    rfl
  · intro _
    rw [vacate_record]
    rfl
  · exact fun e he _ => (freed e.cell).trans (if_pos (List.mem_map_of_mem he))
  · intro c never
    rw [freed, if_neg]
    intro mem
    obtain ⟨e, he, same⟩ := List.mem_map.mp mem
    exact never e he rfl same

theorem FieldsInOrder.rejoin (h : Handle) (supply : BitVec 4) : FieldsInOrder (s.rejoin h supply) := by
  have freed (c : CellNo) : (s.rejoin h supply).cells[c.val] =
      if c ∈ ((s.record h).fields.filter (·.removing)).map FieldEntry.cell then none else s.cells[c.val] := by
    have cells : (s.rejoin h supply).cells = (s.freeCellsOf ((s.record h).fields.filter (·.removing))).cells := by
      rw [rejoin_eq]
      simp only [State.rejoinFreed]
      split
      · exact setSeat?_cells _ _ _
      · rfl
    rw [cells]
    exact cells_freeCellsOf _ s c
  have going {e : FieldEntry} (he : e ∈ (s.record h).fields) (removing : e.removing = true) :
      e.cell ∈ ((s.record h).fields.filter (·.removing)).map FieldEntry.cell :=
    List.mem_map_of_mem (List.mem_filter.mpr ⟨he, removing⟩)
  refine (refits_filter_map i (fun e => !e.removing) FieldEntry.rejoined (actsOn_rejoin s h supply).others ?_ ?_
    (fun _ => rfl) (fun _ => rfl) ?_ ?_ ?_).inOrder i
  · rw [rejoin_record]
    rfl
  · rw [rejoin_record]
    exact nofun
  · intro e _ stays removing
    exact absurd (((Bool.not_eq_true' _).mp stays).symm.trans removing) nofun
  · intro e he stays
    exact (freed e.cell).trans (if_pos (going he ((Bool.not_eq_false' _).mp stays)))
  · intro c never
    rw [freed, if_neg]
    intro mem
    obtain ⟨e, he, same⟩ := List.mem_map.mp mem
    obtain ⟨here, removing⟩ := List.mem_filter.mp he
    exact never e here ((Bool.not_eq_false' _).mpr removing) same

theorem FieldsInOrder.dropField {h : Handle} {e : FieldEntry} (he : e ∈ (s.record h).fields) :
    FieldsInOrder (s.dropField h e) := by
  have record : (s.dropField h e).record h =
      { s.record h with fields := (s.record h).fields.filter (·.id ≠ e.id) } := by
    rw [State.dropField, State.modifyRecord, record_setRecord_self, record_freeCell]
  have unique {f : FieldEntry} (hf : f ∈ (s.record h).fields) (same : f.id = e.id) : f = e :=
    List.inj_on_of_nodup_map ((i.fields.order h).imp fun less => ne_of_lt less) hf he same
  have freed (c : CellNo) : (s.dropField h e).cells[c.val] = if c = e.cell then none else s.cells[c.val] :=
    cells_freeCell s e.cell c
  refine (refits_filter_map (t := s.dropField h e) i (·.id ≠ e.id) id
    (fun k other => record_setRecord_ne _ _ other) ?_ ?_ (fun _ => rfl)
    (fun _ => rfl) (fun f hf _ => i.fields.removing h f hf) ?_ ?_).inOrder i
  · rw [record, List.map_id]
  · rw [record]
    intro vacant
    have empty := i.fields.vacant h vacant
    simp only [empty, List.filter_nil]
  · intro f hf gone
    have same := unique hf (by simpa using gone)
    exact (freed f.cell).trans (if_pos (same ▸ rfl))
  · intro c never
    rw [freed, if_neg]
    rintro rfl
    exact never e he (by simp) rfl

theorem FieldsInOrder.modifyEntry (h : Handle) (id : FieldId) (change : FieldEntry → FieldEntry)
    (same : ∀ e, (change e).id = e.id ∧ (change e).cell = e.cell ∧ (change e).removing = e.removing ∧
      (change e).sent = e.sent) : FieldsInOrder (s.modifyRecord h (·.modifyEntry id change)) := by
  have record : (s.modifyRecord h (·.modifyEntry id change)).record h = (s.record h).modifyEntry id change := by
    rw [State.modifyRecord, record_setRecord_self]
  refine i.map (h := h) (fun e => if e.id = id then change e else e)
    (fun k other => record_setRecord_ne _ _ other) ?_ ?_ rfl
    ?_ ?_ ?_
  · rw [record]
    rfl
  · rw [record]
    exact fun free => free
  · intro e
    split
    · exact (same e).1
    · rfl
  · intro e
    split
    · exact (same e).2.1
    · rfl
  · intro e he
    split
    · obtain ⟨_, _, removing, sent⟩ := same e
      rw [removing, sent]
      exact i.fields.removing h e he
    · exact i.fields.removing h e he

theorem FieldsInOrder.acknowledgeItem (h : Handle) (item : Item) (refused : Bool) :
    FieldsInOrder (s.acknowledgeItem h item refused) := by
  cases item with
  | set id version =>
    have acknowledged := i.modifyEntry h id (·.acknowledge version refused) fun e => by
      cases refused <;> exact ⟨rfl, rfl, rfl, rfl⟩
    rw [acknowledgeItem_set]
    split
    · exact acknowledged.congr (fun _ => rfl) (fun _ free => free) rfl
    · exact acknowledged
  | remove id =>
    simp only [State.acknowledgeItem]
    split
    · exact i
    case h_2 e found =>
      split
      · exact i.dropField (List.mem_of_find?_eq_some found)
      · exact i.modifyEntry h id (fun e => { e with confirmed := none }) fun _ => ⟨rfl, rfl, rfl, rfl⟩

theorem FieldsInOrder.buildFrame (n : SeatNo) (h : Handle) (kind : TurnKind) (work : Work) :
    FieldsInOrder (s.buildFrame n h kind work) := by
  have record : (s.buildFrame n h kind work).record h = (s.record h).built work := record_setRecord_self _ h _
  have others (k : Handle) (other : k ≠ h) : (s.buildFrame n h kind work).record k = s.record k :=
    record_setRecord_ne _ _ other
  cases work with
  | update items =>
    refine i.map (h := h) (·.markSent items) others (by rw [record]; rfl) (by rw [record]; exact fun free => free) rfl
      (fun _ => rfl) (fun _ => rfl) fun e he removing => ?_
    exact Bool.or_eq_true_iff.mpr (.inl (i.fields.removing h e he removing))
  | poll | mode _ | retime _ | move _ | release =>
    refine i.map (h := h) id others (by rw [record, List.map_id]; rfl) (by rw [record]; exact fun free => free) rfl
      (fun _ => rfl) (fun _ => rfl) fun e he => i.fields.removing h e he

theorem FieldsInOrder.takeUp {h : Handle} (free : (s.record h).state = .free) (serial : BitVec 32) (period : Exponent)
    (seat : SeatNo) (level : Level) : FieldsInOrder (s.takeUp h serial period seat level) := by
  have record : (s.takeUp h serial period seat level).record h = (s.record h).admitted serial period seat level :=
    record_setRecord_self _ h _
  have others (k : Handle) (other : k ≠ h) : (s.takeUp h serial period seat level).record k = s.record k :=
    record_setRecord_ne _ _ other
  refine i.congr (fun k => ?_) (fun k => ?_) rfl
  · by_cases same : k = h
    · rw [same, record, i.fields.vacant h free]
      rfl
    · rw [others k same]
  · by_cases same : k = h
    · rw [same, record]
      exact nofun
    · rw [others k same]
      exact fun free => free

theorem FieldsInOrder.sameBlocks {t : State} (same : SameBlocks s t) : FieldsInOrder t := by
  have record (k : Handle) : t.record k = s.record k := by rw [State.record, State.record, same.records]
  exact i.congr (fun k => by rw [record]) (fun k => by rw [record]; exact fun free => free) same.cells

theorem FieldsInOrder.touch {h : Handle} {r : Record} (touched : (s.record h).Touched s.limits r) :
    FieldsInOrder (s.setRecord h r) := by
  refine i.congr (fun k => ?_) (fun k => ?_) rfl
  · rw [record_setRecord]
    split
    case isTrue same => exact same ▸ touched.fields
    · rfl
  · rw [record_setRecord]
    split
    case isTrue same => exact same ▸ touched.free
    · exact fun free => free

end

theorem fieldsInOrder_reset : FieldsInOrder State.reset := by
  have vacant (k : Handle) : State.reset.record k = Record.vacant := by simp [State.record, State.reset]
  have cells (c : CellNo) : State.reset.cells[c.val] = none := by simp [State.reset]
  refine ⟨⟨?_, ?_, ?_, ?_, ?_⟩, ⟨?_, ?_, ?_⟩⟩ <;> simp [vacant, cells, Record.vacant]

/-- The operations of the walk keep field lists and cells in order. -/
theorem blindInvariant_fields : BlindInvariant EditInvariant FieldsInOrder where
  same blocks _ i := i.sameBlocks blocks
  blind blocks i := i.sameBlocks blocks
  reset := fieldsInOrder_reset
  port _ _ _ i := i.congr (fun _ => rfl) (fun _ free => free) rfl
  limits _ _ _ i := i.congr (fun _ => rfl) (fun _ free => free) rfl
  census _ _ _ i := i.congr (fun _ => rfl) (fun _ free => free) rfl
  touch _ _ _ touched i := i.touch touched
  takeUp _ _ serial period seat level free i := i.takeUp free serial period seat level
  vacate _ h outcome left i := i.vacate h outcome left
  rejoin _ h supply i := i.rejoin h supply
  acknowledge _ h item refused i := i.acknowledgeItem h item refused
  premise _ _ e := e
  commit _ _ _ e editing choice i := i.applyCommit e editing choice
  build _ n h kind work i := i.buildFrame n h kind work

/-- Settles O58: the field lists and the cells go through the walk over the rows, under the range of the staged
operations. -/
theorem stepKeepsFieldsAndCells : Obligations.StepKeepsFieldsAndCells := by
  intro s t edit fields cells run
  have kept := blindInvariant_fields.step edit (fun _ e => e)
    (fun i => Answer.gives_next (i.congr (fun _ => rfl) (fun _ free => free) rfl)) ⟨fields, cells⟩ run
  exact ⟨kept.fields, kept.cells⟩

end Sys2Proof.Machine
end


section
/-! PROOFS. Downlink frames byte by byte (R185), superframe starts and the offer turn (R31, R67, R92, R93): O30 and O31,
and why O56 and O57 fail. -/

namespace Sys2Proof.Machine

/-! ## Downlink frames -/

/-- Two bytes of a word, most significant first. -/
theorem be16_toNat (c : BitVec 16) : be16 c.toNat = [(c >>> 8).setWidth 8, c.setWidth 8] := by
  have high : byteOf (c.toNat / 256) = (c >>> 8).setWidth 8 := by
    apply BitVec.eq_of_toNat_eq
    simp [byteOf, Nat.shiftRight_eq_div_pow]
  have low : byteOf c.toNat = c.setWidth 8 := by
    apply BitVec.eq_of_toNat_eq
    simp [byteOf]
  rw [be16, high, low]

theorem toNat_append_word {w v : Nat} (x : BitVec w) (y : BitVec v) : (x ++ y).toNat = 2 ^ v * x.toNat + y.toNat := by
  rw [BitVec.toNat_append, ← Nat.shiftLeft_add_eq_or_of_lt y.isLt, Nat.shiftLeft_eq, Nat.mul_comm]

/-- The kind and the tag in one byte (R185). -/
theorem byteOf_kind_tag (kind : Nat) (tag : BitVec 4) :
    byteOf (16 * kind + tag.toNat) = BitVec.ofNat 4 kind ++ tag := by
  apply BitVec.eq_of_toNat_eq
  have low := tag.isLt
  rw [toNat_append_word, byteOf, BitVec.toNat_ofNat, BitVec.toNat_ofNat]
  omega

/-- The level and the low six bits of the superframe number in one byte (R185). -/
theorem byteOf_level_superframe (level : Level) (superframe : BitVec 16) :
    byteOf (64 * level.val + superframe.toNat % 64) = BitVec.ofNat 2 level.val ++ superframe.setWidth 6 := by
  apply BitVec.eq_of_toNat_eq
  have small := level.isLt
  rw [toNat_append_word, byteOf, BitVec.toNat_ofNat, BitVec.toNat_ofNat, BitVec.toNat_setWidth]
  omega

/-- A downlink frame: the four header bytes, the payload, and the check over both, high byte first (R57, R185). -/
theorem downlinkFrame_eq (address : Byte) (kind : Nat) (tag : BitVec 4) (level : Level)
    (superframe : BitVec 16) (payload : List Byte) :
    let body := [address, BitVec.ofNat 4 kind ++ tag, BitVec.ofNat 2 level.val ++ superframe.setWidth 6,
      BitVec.ofNat 8 payload.length] ++ payload
    downlinkFrame address kind tag level superframe payload =
      body ++ [(frameCheck body >>> 8).setWidth 8, (frameCheck body).setWidth 8] := by
  simp only [downlinkFrame, be16_toNat, byteOf_kind_tag, byteOf_level_superframe]
  rfl

/-! ## Superframe starts -/

/-- A superframe start before its offer turn (R31, R46, R65). -/
def State.superframeBegun (s : State) (ready : Bool) : State :=
  { s with time := s.time.nextSuperframe, seats := coolSeats s.seats, lateRef := none, ready := ready }

theorem beginSuperframe_eq (s : State) (ready : Bool) :
    s.beginSuperframe ready = (s.superframeBegun ready).offerTurnStart := rfl

section
variable {s : State} (out : s.inReset = false)
include out

/-- SUPERFRAME_START in RUNNING with no turn in flight (R31). -/
theorem exec_superframeStart (running : s.time.link = .running) (idle : s.context = none) (ready : Bool) :
    exec (.superframeStart ready) s = .next ((s.superframeBegun ready).offerTurnStart) :=
  (event_taken s out _).trans (congrArg Host.Outcome.next (if_pos ⟨running, idle⟩))

/-- SUPERFRAME_START outside RUNNING (log 2). -/
theorem exec_superframeStart_ignored (running : s.time.link ≠ .running) (ready : Bool) :
    exec (.superframeStart ready) s = .next s :=
  (event_taken s out _).trans (congrArg Host.Outcome.next (if_neg fun both => running both.1))

/-- SETTLE_EXPIRY in STARTING (R36). -/
theorem exec_settleExpiry (starting : s.time.link = .starting) (ready : Bool) :
    exec (.settleExpiry ready) s = .next (s.settled ready) :=
  (event_taken s out _).trans (congrArg Host.Outcome.next (if_pos starting))

/-- SETTLE_EXPIRY outside STARTING (log 2). -/
theorem exec_settleExpiry_ignored (starting : s.time.link ≠ .starting) (ready : Bool) :
    exec (.settleExpiry ready) s = .next s :=
  (event_taken s out _).trans (congrArg Host.Outcome.next (if_neg starting))

end

/-- At a superframe start a COOLING seat counts down, and one that has counted to 0 is FREE (R46). -/
theorem coolSeats_eq (seats : Vector Seat 189) :
    coolSeats seats = seats.map fun v => match v with
      | .cooling n => if n ≤ 1 then .free else .cooling (n - 1)
      | .held h => .held h
      | .free => .free := by
  rw [coolSeats_eq_map]
  refine congrArg (fun f => Vector.map f seats) (funext fun v => ?_)
  cases v with
  | cooling n =>
    obtain zero | more : n ≤ 1 ∨ 1 < n := by omega
    · have last : n - 1 = 0 := by omega
      simp [Seat.decrement, Seat.expire, zero, last]
    · have left : n - 1 ≠ 0 := by omega
      simp [Seat.decrement, Seat.expire, not_le.mpr more, left]
  | held h => rfl
  | free => rfl

/-- Settles O30: a superframe start, its offer turn apart, is one record update of the state. -/
theorem superframeStartAdvances : Obligations.SuperframeStartAdvances := by
  intro s ready out
  refine ⟨fun running idle empty => ?_, fun starting empty => ?_, fun starting idle => ?_, fun link => ?_,
    fun link => ?_⟩
  · rw [exec_superframeStart out running idle, offerTurnStart_idle (s := s.superframeBegun ready) empty]
    simp only [State.superframeBegun, TimeBase.nextSuperframe, coolSeats_eq, running]
    rfl
  · have settle : (if s.time.link = .starting then none else s.time.settle) = none := if_pos starting
    rw [exec_settleExpiry out starting, State.settled, beginSuperframe_eq, offerTurnStart_idle (by exact empty)]
    simp only [State.superframeBegun, coolSeats_eq, settle]
    rfl
  · rw [exec_settleExpiry out starting]
    let entered : State := { s with time := { s.time with link := .running, settle := none } }.setFlag .linkState
    exact (exec_superframeStart (s := entered) out rfl idle ready).symm
  · exact exec_superframeStart_ignored out link ready
  · exact exec_settleExpiry_ignored out link ready

/-! ## The offer turn -/

/-- What the offer turn start leaves when it offers to a record (R67, R94). -/
theorem buildOffer_frame (u : State) (h : Handle) :
    u.buildOffer h = { u with context := (u.buildOffer h).context, frameOut := (u.buildOffer h).frameOut } := rfl

/-- The frame of an OFFER (R94, R185). -/
theorem buildOffer_frameOut {u : State} {h : Handle} {n : SeatNo} (seat : (u.record h).seat = some n) :
    ∃ check : BitVec 16,
      let body : List Byte :=
        [0, 0x70, 0xC0 ||| (u.time.superframe.setWidth 6).setWidth 8, 8] ++ be32 (u.record h).serial ++
          [BitVec.ofNat 8 (h.val + 1), byteOf n.val, byteOf (u.record h).period.val, byteOf (u.record h).level.val]
      check = frameCheck body ∧
        (u.buildOffer h).frameOut = body ++ [(check >>> 8).setWidth 8, check.setWidth 8] := by
  have strongest (x : BitVec 6) : BitVec.ofNat 2 3 ++ x = (0xC0 : Byte) ||| x.setWidth 8 := by
    revert x
    decide
  have payload : (u.record h).offerPayload h = be32 (u.record h).serial ++
      [BitVec.ofNat 8 (h.val + 1), byteOf n.val, byteOf (u.record h).period.val, byteOf (u.record h).level.val] := by
    simp only [Record.offerPayload, seat]
    rfl
  refine ⟨_, rfl, ?_⟩
  rw [← strongest]
  have frame := downlinkFrame_eq 0 offerKindCode 0 3 u.time.superframe ((u.record h).offerPayload h)
  rw [payload] at frame
  have built : (u.buildOffer h).frameOut = downlinkFrame 0 offerKindCode 0 3 u.time.superframe
      ((u.record h).offerPayload h) := rfl
  rw [built, payload, frame]
  rfl

section
variable {s : State} (out : s.inReset = false) (running : s.time.link = .running) (idle : s.context = none)
include out running idle

/-- With READY inactive the offer turn of a superframe start is SKIPPED (R67). -/
theorem exec_superframeStart_skipped (queue : s.offerQueue ≠ []) :
    exec (.superframeStart false) s = .next (s.superframeBegun false).skipTurn := by
  rw [exec_superframeStart out running idle, offerTurnStart_skipped (s := s.superframeBegun false) queue rfl]

/-- With READY active the exhausted heads fall, and the next record is offered (R92, R93). -/
theorem exec_superframeStart_offers (queue : s.offerQueue ≠ []) :
    exec (.superframeStart true) s =
      .next ((s.superframeBegun true).dropExhausted s.offerQueue).offerHead := by
  rw [exec_superframeStart out running idle, offerTurnStart_offers (s := s.superframeBegun true) queue rfl]
  rfl

end

/-- Behind the records that fall the offer turn offers to nobody if the queue has ended. -/
theorem offerHead_nil {s : State} (queue : s.offerQueue = []) : s.offerHead = s := by
  rw [State.offerHead, queue]

theorem offerHead_cons {s : State} {h : Handle} {behind : List Handle} (queue : s.offerQueue = h :: behind) :
    s.offerHead = s.buildOffer h := by
  rw [State.offerHead, queue]

/-- A head with OFFERs left keeps the queue as it is (R92). -/
theorem dropExhausted_few {s : State} {h : Handle} {rest : List Handle} (few : (s.record h).attempts < 4) :
    s.dropExhausted (h :: rest) = s := by
  rw [State.dropExhausted]
  exact if_pos few

/-- What `dropExhausted` leaves, when it has let records fall, with the offer to the head behind them. -/
theorem offerHead_frame (u : State) :
    u.offerHead = { u with context := u.offerHead.context, frameOut := u.offerHead.frameOut } := by
  unfold State.offerHead
  split <;> rfl

/-- Settles O31: the offer turn start on what `dropExhausted` leaves of the offer queue. -/
theorem offerTurnServesQueue : Obligations.OfferTurnServesQueue := by
  unfold Obligations.OfferTurnServesQueue
  intro offered
  -- the OFFER, by what the offer turn has left of the state it began in
  have offers (s u : State) (h : Handle) (n : SeatNo) (record : u.record h = s.record h)
      (superframe : u.time.superframe = s.time.superframe + 1) (seat : (s.record h).seat = some n) :
      offered s h n (u.buildOffer h) := by
    rw [← record] at seat
    have frame := buildOffer_frameOut seat
    rw [record, superframe] at frame
    exact ⟨by rw [State.buildOffer, record, superframe], frame⟩
  refine ⟨fun s h rest n out running idle queue seat => ⟨?_, fun few => ?_⟩,
    fun s gone rest out running idle queue nodup some exhausted next => ?_⟩
  · refine ⟨_, exec_superframeStart_skipped out running idle (queue ▸ nofun), idle, rfl, rfl, rfl, rfl, rfl, ?_, rfl⟩
    simp [State.skipTurn]
  · refine ⟨_, exec_superframeStart_offers out running idle (queue ▸ nofun), ?_⟩
    rw [queue, dropExhausted_few (s := s.superframeBegun true) few, offerHead_cons (s := s.superframeBegun true) queue]
    exact ⟨rfl, queue, rfl, rfl, rfl, offers s _ h n rfl rfl seat⟩
  · obtain ⟨offerQueue, fallen, others, flags, port, frame⟩ :=
      dropExhausted_spec gone rest (s.superframeBegun true) queue nodup exhausted next
    refine ⟨_, exec_superframeStart_offers out running idle (queue ▸ List.append_ne_nil_of_left_ne_nil some rest), ?_⟩
    rw [queue]
    generalize (s.superframeBegun true).dropExhausted (gone ++ rest) = u at *
    have superframe : u.time.superframe = s.time.superframe + 1 := by rw [frame]; rfl
    have set (f : EventFlag) (cause : f = .lost ∨ f = .changed) : u.offerHead.flag f = true := by
      rw [offerHead_frame]
      have flag := flags f
      simp only [ne_eq, some, not_false_eq_true, decide_true, Bool.true_and] at flag
      obtain rfl | rfl := cause
      · exact flag.trans (by simp)
      · exact flag.trans (by simp)
    refine ⟨?queue, ?fallen, ?others, set _ (.inl rfl), set _ (.inr rfl), ?skipped, ?cells, ?superframe, ?nobody, ?next⟩
    case queue =>
      rw [offerHead_frame]
      exact offerQueue
    case fallen =>
      rw [offerHead_frame]
      exact fallen
    case others =>
      rw [offerHead_frame]
      exact others
    case skipped =>
      rw [offerHead_frame]
      exact (congrArg Port.skipped port).trans rfl
    case cells =>
      rw [offerHead_frame, frame]
      rfl
    case superframe =>
      rw [offerHead_frame]
      exact superframe
    case nobody =>
      intro empty
      rw [offerHead_nil (offerQueue.trans empty), frame]
      exact ⟨idle, rfl⟩
    case next =>
      intro h behind n behindGone seat
      rw [offerHead_cons (offerQueue.trans behindGone)]
      have stays : h ∉ gone := fun mem =>
        (List.nodup_append.mp nodup).2.2 h mem h (behindGone ▸ List.mem_cons_self) rfl
      exact offers s u h n (others h stays).1 superframe seat

/-! ## Queues and seats are not kept on their own

The offer turn start takes each handle of the offer queue for that of an OFFERED record: a FREE record whose handle stands
there with four OFFERs sent becomes LOST, without serial and without seat. That no such handle stands there is
`OfferInvariant`, which neither `SerialInvariant` nor `SeatInvariant` says. -/

/-- A part in RUNNING with the handle of a FREE record in its offer queue, four OFFERs counted, before a superframe
start. -/
def exhaustedFree : State :=
  { State.reset with
    records := State.reset.records.set 0 { Record.vacant with attempts := 4 }
    offerQueue := [0]
    time := { State.reset.time with link := .running }
    pending := [.superframeStart true] }

theorem exhaustedFree_record (h : Handle) :
    exhaustedFree.record h = if h = 0 then { Record.vacant with attempts := 4 } else Record.vacant := by
  have vacant : State.reset.record h = Record.vacant := by simp [State.record, State.reset]
  refine (record_setRecord State.reset 0 h { Record.vacant with attempts := 4 }).trans ?_
  rw [vacant]

theorem exhaustedFree_free (h : Handle) :
    (exhaustedFree.record h).state = .free ∧ (exhaustedFree.record h).seat = none ∧
      (exhaustedFree.record h).target = none := by
  rw [exhaustedFree_record]
  split <;> exact ⟨rfl, rfl, rfl⟩

/-- The FREE record falls to LOST. -/
theorem step_exhaustedFree :
    ∃ t, step exhaustedFree = .next t ∧
      (t.record 0).state = .lost ∧ (t.record 0).serial = 0 ∧ (t.record 0).seat = none := by
  obtain ⟨t, run, _, fallen, _⟩ := offerTurnServesQueue.2 { exhaustedFree with pending := [] } [0] [] rfl rfl rfl rfl
    (by decide) (by decide) (fun h mem => by
      rw [List.mem_singleton.mp mem]
      exact (congrArg Record.attempts (exhaustedFree_record 0)).ge) nofun
  obtain ⟨record, _⟩ := fallen 0 List.mem_cons_self
  have before : ({ exhaustedFree with pending := [] } : State).record 0 = { Record.vacant with attempts := 4 } :=
    exhaustedFree_record 0
  rw [before] at record
  exact ⟨t, run, by rw [record], by rw [record]; rfl, by rw [record]; rfl⟩

/-- Refutes O56: `SerialInvariant` holds of `exhaustedFree` and not after its superframe start. -/
theorem not_stepKeepsQueues : ¬ Obligations.StepKeepsQueues := by
  rintro ⟨_, serials⟩
  obtain ⟨t, run, lost, serial, _⟩ := step_exhaustedFree
  have before : SerialInvariant exhaustedFree :=
    { valid := fun h occupied => absurd (exhaustedFree_free h).1 occupied
      distinct := fun h _ occupied => absurd (exhaustedFree_free h).1 occupied
      room := Nat.zero_le _
      once := List.nodup_nil
      entries := nofun
      unknown := nofun }
  exact ((serials exhaustedFree t before run).valid 0 (lost ▸ nofun)).1 serial

/-- Refutes O57: `EditInvariant` and `SeatInvariant` hold of `exhaustedFree`, and `SeatInvariant` not after its superframe
start. -/
theorem not_stepKeepsSeats : ¬ Obligations.StepKeepsSeats := by
  intro seats
  obtain ⟨t, run, lost, _, seat⟩ := step_exhaustedFree
  have free (n : SeatNo) : exhaustedFree.seatState n = .free := by
    simp [State.seatState, exhaustedFree, State.reset]
  have before : SeatInvariant exhaustedFree :=
    { held := fun n h => by simp [free, exhaustedFree_free h]
      present := fun h occupied => absurd (exhaustedFree_free h).1 occupied
      vacant := fun h _ => (exhaustedFree_free h).2
      offered := fun h _ => (exhaustedFree_free h).2.2
      apart := fun h _ seat => absurd ((exhaustedFree_free h).2.1.symm.trans seat) nofun
      cooling := fun n _ cooling => absurd ((free n).symm.trans cooling) nofun }
  have present := (seats exhaustedFree t nofun before run).2.present 0 (lost ▸ nofun)
  rw [seat] at present
  cases present

end Sys2Proof.Machine
end


section
/-! PROOFS. Steps, transactions and the port (R172 to R184): O1, O2, O3, O4, O5, O6, O8, O9 and O60. -/

namespace Sys2Proof.Machine

/-! ## Steps -/

/-- Settles O1. -/
theorem stepRunsFrontRow : Obligations.StepRunsFrontRow := by
  intro c rest s queue
  unfold step
  rw [queue]

/-- On an empty queue a step is a tick (log 1). -/
theorem step_tick {s : State} (empty : s.pending = []) : step s = .next s.tickClock := by
  unfold step
  rw [empty]

/-! ## Encoding -/

/-- Settles O60: the decoder is turned back on the bytes of each row. -/
theorem transactionsRoundTrip : Obligations.TransactionsRoundTrip := by
  refine ⟨encodeTransaction_decodeTransaction, fun i bytes wf encoded => ?_⟩
  cases i with
  | unknownCommand code params => exact Laws.Encoding.unknownCommand code params wf bytes encoded
  | _ => cases encoded <;> rfl

/-! ## Lengths (R173) -/

section
variable {s : State} {status : Byte} (hs : s.selected status)
include hs

/-- A command whose effect is a refusal changes nothing but the port. -/
theorem command_refused {params : List Byte} {effect : State → State} {result : ResultCode}
    (refused : ∀ u, effect u = u.refuse result) :
    s.command params effect = .next (s.answered status params result []) := by
  rw [command_selected s hs, refused]
  rfl

/-- A command that takes no parameters refuses any. -/
theorem command0_length {params : List Byte} (effect : State → State) (wrong : params.length ≠ 0) :
    s.command0 params effect = .next (s.answered status params .length []) := by
  refine command_refused hs fun u => if_neg ?_
  rw [List.isEmpty_iff_length_eq_zero]
  exact wrong

end

/-- A code of the command table whose commands take a fixed number of parameter bytes refuses any other number. -/
theorem exec_wrongLength {s : State} {status : Byte} (hs : s.selected status) {code : Byte} {n : Nat} {params : List Byte}
    (count : parameterCount code = some n) (wrong : params.length ≠ n) :
    exec (decodeTransaction (code :: params)) s = .next (s.answered status params .length []) := by
  unfold parameterCount at count
  split at count
  case isTrue mem =>
    cases count
    simp only [List.mem_cons, List.not_mem_nil, or_false] at mem
    rcases mem with rfl | rfl | rfl | rfl | rfl | rfl | rfl | rfl | rfl | rfl | rfl | rfl | rfl | rfl
    all_goals exact command0_length hs _ wrong
  split at count
  case isTrue mem =>
    cases count
    simp only [List.mem_cons, List.not_mem_nil, or_false] at mem
    rcases mem with rfl | rfl | rfl | rfl | rfl | rfl | rfl | rfl | rfl
    all_goals
      refine command_refused hs fun u => ?_
      split
      · exact absurd rfl wrong
      · rfl
  split at count
  case isTrue mem =>
    cases count
    simp only [List.mem_cons, List.not_mem_nil, or_false] at mem
    rcases mem with rfl | rfl | rfl | rfl | rfl
    all_goals
      refine command_refused hs fun u => ?_
      split
      · exact absurd rfl wrong
      · rfl
  split at count
  case isTrue mem =>
    cases count
    subst mem
    refine command_refused hs fun u => ?_
    split
    · exact absurd rfl wrong
    · rfl
  split at count
  case isTrue mem =>
    cases count
    subst mem
    refine command_refused hs fun u => ?_
    split
    · exact absurd rfl wrong
    · rfl
  split at count
  case isTrue mem =>
    cases count
    subst mem
    refine command_refused hs fun u => ?_
    split
    · exact absurd rfl wrong
    · rfl
  split at count
  case isTrue mem =>
    cases count
    rcases mem with rfl | rfl
    all_goals
      refine command_refused hs fun u => ?_
      split
      · exact absurd rfl wrong
      · rfl
  case isFalse => cases count

/-- Settles O4: each command refuses what its pattern of parameters does not meet. -/
theorem unknownCodeAndWrongLengthRefused : Obligations.UnknownCodeAndWrongLengthRefused := by
  refine ⟨fun s status code params unknown hs => ⟨?_, command_refused hs fun _ => rfl⟩,
    fun s status hs => ⟨fun code params n count wrong => exec_wrongLength hs count wrong, fun params short => ?_,
      fun id length value wrong => ?_⟩⟩
  · exact Laws.decodeCommand_unknown (by simpa using unknown) params
  · refine command_refused hs fun u => ?_
    split
    · simp only [List.length_cons] at short
      omega
    · rfl
  · exact command_refused hs fun u => if_neg wrong

/-! ## Reset (R183) -/

/-- Settles O5: in reset, and after an abandoned fall, nothing is captured. -/
theorem nothingTakenInReset : Obligations.NothingTakenInReset := by
  refine ⟨fun s bytes held => ?_, fun s row held event => exec_event_in_reset held ?_⟩
  · have none : s.captured = none := by
      obtain held | abandoned := held
      · exact captured_in_reset held
      · simp [State.captured, abandoned]
    exact exec_transaction_not_taken none (encodeTransaction_decodeTransaction bytes)
  · obtain ⟨_, rfl⟩ | ⟨_, rfl⟩ | ⟨_, rfl⟩ | ⟨_, _, rfl⟩ | ⟨_, rfl⟩ | mem := event
    case inr.inr.inr.inr.inr =>
      simp only [List.mem_cons, List.not_mem_nil, or_false] at mem
      rcases mem with rfl | rfl | rfl | rfl | rfl | rfl | rfl <;> rfl
    all_goals rfl

/-! ## The response and the events (R174, R178 to R180) -/

/-- Settles O6. -/
theorem readResponseStreamsBuffer : Obligations.ReadResponseStreamsBuffer := by
  intro s status params hs
  exact congrArg Host.Outcome.next (takeCommand_selected s hs _ _)

/-- The flag word of a parameter (R187). -/
theorem ofNat_word16 (hi lo : Byte) : BitVec.ofNat 9 (word16 hi lo) = (hi ++ lo).setWidth 9 := by
  apply BitVec.eq_of_toNat_eq
  rw [BitVec.toNat_ofNat, BitVec.toNat_setWidth, toNat_append_byte, word16]

/-- Settles O8: each flag is its bit, and the two commands write the words. -/
theorem eventCommandsMoveAttention : Obligations.EventCommandsMoveAttention := by
  refine ⟨fun s f mem => ?_, fun s status hi lo hs => ?_⟩
  · simp only [List.mem_cons, List.not_mem_nil, or_false] at mem
    rcases mem with rfl | rfl | rfl | rfl | rfl | rfl | rfl | rfl | rfl <;> exact ⟨flag_eq s _, rfl⟩
  · constructor
    · refine (command_selected s hs _ _).trans ?_
      simp only [ofNat_word16]
      rfl
    · refine (command_selected s hs _ _).trans ?_
      simp only [ofNat_word16]
      rfl

/-- Settles O9. -/
theorem resetCommandKeepsPopulation : Obligations.ResetCommandKeepsPopulation :=
  fun s _ hs => command0_selected s hs _

/-! ## The fall and the rise of chip select (R172, R175) -/

/-- The port status byte, bit by bit (R175). -/
theorem statusByte_eq (s : State) :
    s.statusByte =
      BitVec.ofBool s.port.attention ++ BitVec.ofBool s.edit.isSome ++ BitVec.ofNat 2 s.time.link.code ++
        BitVec.ofNat 4 s.port.lastResult.code := by
  have link : s.time.link.code < 4 := by cases s.time.link <;> decide
  have result : s.port.lastResult.code < 16 := by cases s.port.lastResult <;> decide
  have attention := Bool.toNat_le s.port.attention
  have edit := Bool.toNat_le s.edit.isSome
  apply BitVec.eq_of_toNat_eq
  rw [toNat_append_word, toNat_append_word, toNat_append_word, BitVec.toNat_ofBool, BitVec.toNat_ofBool,
    BitVec.toNat_ofNat, BitVec.toNat_ofNat, State.statusByte, BitVec.toNat_ofNat]
  omega

/-! ### What a transaction leaves of the chip select -/

/-- An effect that leaves the chip select as it finds it. -/
def KeepsSelect (effect : State → State) : Prop := ∀ u, (effect u).port.select = u.port.select

/-- The chip select is high. -/
def Deselected (s : State) : Prop := s.port.select = .high

section
variable {s : State} (params : List Byte) {effect : State → State}

theorem takeCommand_deselects (out : List Byte) (keeps : KeepsSelect effect) : Deselected (s.takeCommand out effect) := by
  unfold State.takeCommand
  split
  · rfl
  · exact keeps _

theorem command_deselects (keeps : KeepsSelect effect) : Answer.Gives Deselected (s.command params effect) :=
  Answer.gives_next (takeCommand_deselects _ keeps)

theorem command0_deselects (keeps : KeepsSelect effect) : Answer.Gives Deselected (s.command0 params effect) := by
  refine command_deselects params fun u => ?_
  split
  · exact keeps u
  · rfl

end

theorem admitWith_select (s : State) (serial : BitVec 32) (period : Option Exponent) (seat : Option SeatRequest)
    (level : Option Level) : (s.admitWith serial period seat level).port.select = s.port.select := by
  unfold State.admitWith
  split
  · split <;> rfl
  · rfl

theorem vacate_port (s : State) (h : Handle) (outcome : ReleaseOutcome) (left : Seat) :
    (s.vacate h outcome left).port = s.port := by
  rw [vacate_frame]

theorem retire_select (s : State) (h : Handle) : (s.retire h).port.select = s.port.select := by
  unfold State.retire
  split
  · rfl
  · split
    · rfl
    · show (s.vacate h .unanswered .cooled).port.select = _
      rw [vacate_port]
  all_goals split <;> rfl

theorem forget_select (s : State) (h : Handle) : (s.forget h).port.select = s.port.select := by
  unfold State.forget
  split
  · rfl
  · split
    · rfl
    · show (s.vacate h .forgotten .cooled).port.select = _
      rw [vacate_port]

theorem beginEdit_select (s : State) (h : Handle) : (s.beginEdit h).port.select = s.port.select := by
  unfold State.beginEdit
  split
  · rfl
  · split <;> rfl

theorem stage_select (s : State) (op : Option StagedOp) : (s.stage op).port.select = s.port.select := by
  unfold State.stage
  split
  · rfl
  · split
    · rfl
    · split <;> rfl

theorem stopLink_select (s : State) : s.stopLink.port.select = s.port.select := by
  unfold State.stopLink
  split
  case h_3 => split <;> rfl
  all_goals rfl

theorem applyCommit_select (s : State) (h : Handle) (ops : List StagedOp) (seat : Option SeatNo) :
    (s.applyCommit h ops seat).port.select = s.port.select := by
  rw [applyCommit_frame]

/-- Every transaction ends with the chip select high (R172). -/
theorem exec_transaction_deselects {s : State} {row : Instr} {bytes : List Byte}
    (ends : encodeTransaction row = some bytes) : Answer.Gives Deselected (exec row s) := by
  cases row with
  | emptyTransaction => exact Answer.gives_next rfl
  | readResponse params => exact Answer.gives_next (takeCommand_deselects _ fun _ => rfl)
  | unknownCommand code params => exact command_deselects params fun _ => rfl
  | noOperation params | readStatus params | readIdent params | resetCommand params | readEvents params
  | readTime params | readCensus params => exact command0_deselects params fun _ => rfl
  | startLink params | readJoin params | dropJoin params | readChanged params | abortEdit params =>
    exact command0_deselects params fun _ => by split <;> rfl
  | stopLink params => exact command0_deselects params stopLink_select
  | clearEvents params | setEventMask params => exact command_deselects params fun _ => by split <;> rfl
  | startCensus params | readRecord params | setLinkTiming params =>
    exact command_deselects params fun _ => by
      split
      · split <;> rfl
      · rfl
  | listState params =>
    exact command_deselects params fun _ => by
      split
      · split <;> rfl
      · rfl
  | setQualityLimits params =>
    refine command_deselects params fun u => ?_
    split
    · simp only
      split <;> rfl
    · rfl
  | setLevel params | findSerial params =>
    refine command_deselects params fun u => ?_
    split
    · split
      · split <;> rfl
      · rfl
    · rfl
  | takePresses params =>
    refine command_deselects params fun u => ?_
    split
    · split
      · rfl
      · split <;> rfl
    · rfl
  | readField params =>
    refine command_deselects params fun u => ?_
    split
    · split
      · split
        · rfl
        · split <;> rfl
      · rfl
    · rfl
  | admitLabel params =>
    refine command_deselects params fun u => ?_
    split
    · exact admitWith_select u _ _ _ _
    · rfl
  | retire params =>
    refine command_deselects params fun u => ?_
    split
    · split
      · rfl
      · exact retire_select u _
    · rfl
  | forget params =>
    refine command_deselects params fun u => ?_
    split
    · split
      · rfl
      · exact forget_select u _
    · rfl
  | beginEdit params =>
    refine command_deselects params fun u => ?_
    split
    · split
      · rfl
      · exact beginEdit_select u _
    · rfl
  | stageField params =>
    refine command_deselects params fun u => ?_
    split
    · split
      · exact stage_select u _
      · rfl
    · rfl
  | stageRemove params | stageMode params | stagePeriod params | stageSeat params =>
    refine command_deselects params fun u => ?_
    split
    · exact stage_select u _
    · rfl
  | commitEdit params =>
    refine command0_deselects params fun u => ?_
    split
    · rfl
    · split
      · rfl
      · exact applyCommit_select u _ _ _
  | _ => cases ends

/-! ### A row with no fall recorded -/

/-- With the chip select high and no fall recorded, the status byte is captured as it stands (log 5). -/
theorem captured_high {s : State} (out : s.inReset = false) (high : s.port.select = .high) :
    s.captured = some s.statusByte := by
  simp [State.captured, out, high]

/-- A command is the same whether its fall has been recorded or not (log 5). -/
theorem takeCommand_high {s : State} (out : s.inReset = false) (high : s.port.select = .high) (bytes : List Byte)
    (effect : State → State) :
    s.takeCommand bytes effect =
      State.takeCommand { s with port := { s.port with select := .low s.statusByte } } bytes effect := by
  have fallen : State.captured { s with port := { s.port with select := .low s.statusByte } } = some s.statusByte :=
    captured_selected _ ⟨out, rfl⟩
  rw [State.takeCommand, State.takeCommand, captured_high out high, fallen]
  rfl

/-- A transaction is the same whether its fall has been recorded or not (log 5). -/
theorem exec_transaction_high {s : State} (out : s.inReset = false) (high : s.port.select = .high) {row : Instr}
    {bytes : List Byte} (ends : encodeTransaction row = some bytes) :
    exec row s = exec row { s with port := { s.port with select := .low s.statusByte } } := by
  cases row with
  | emptyTransaction => rfl
  | chipSelectFall | powerOn | resetLineAssert | resetLineRelease | settleExpiry _ | superframeStart _
  | coolingExpiry _ | offerTurnTimeout | joinWindowStart | joinWindowEnd | turnStart _ _ | downlinkSent
  | plannedOpen | plannedClose | uplinkFrame _ | censusCompletion => cases ends
  | _ => exact congrArg Host.Outcome.next (takeCommand_high out high _ _)

theorem dataOutDriven_of_deselected {s : State} (deselected : Deselected s) : s.dataOutDriven = false := by
  have deselected : s.port.select = .high := deselected
  simp [State.dataOutDriven, deselected]

/-- Every row has a next state. -/
theorem exec_next (row : Instr) (s : State) : ∃ t, exec row s = .next t := by
  cases row <;> exact ⟨_, rfl⟩

/-- A transaction leaves the data output released (R172). -/
theorem exec_transaction_released (s : State) (bytes : List Byte) :
    ∃ t, exec (decodeTransaction bytes) s = .next t ∧ t.dataOutDriven = false := by
  obtain ⟨t, run⟩ := exec_next (decodeTransaction bytes) s
  have deselected := exec_transaction_deselects (encodeTransaction_decodeTransaction bytes) t run
  exact ⟨t, run, dataOutDriven_of_deselected deselected⟩

/-- Settles O3: the fall captures the status byte, and every transaction ends with the chip select high. -/
theorem chipSelectCapturesStatus : Obligations.ChipSelectCapturesStatus := by
  refine ⟨fun s => ⟨fun out => ?fall, fun held => ?held⟩, fun _ => rfl, fun s bytes out high => ?same,
    fun s => ⟨⟨_, rfl, ?driven⟩, exec_transaction_released s, _, rfl, ?asserted⟩, rfl, rfl⟩
  case fall =>
    rw [← statusByte_eq]
    show Host.Outcome.next _ = _
    rw [if_neg (by rw [out]; nofun)]
  case held =>
    show Host.Outcome.next _ = _
    rw [if_pos held]
  case same => exact exec_transaction_high out high (encodeTransaction_decodeTransaction bytes)
  case driven =>
    cases s.inReset <;> simp [State.dataOutDriven]
  case asserted => simp [State.dataOutDriven]

/-! ## The clock (R28 to R31, R36) -/

section
variable {s : State} (out : s.inReset = false)
include out

theorem tickClock_starting (starting : s.time.link = .starting) : s.tickClock = s.tickSettle := by
  simp only [State.tickClock, out, Bool.false_eq_true, if_false, starting]

theorem tickClock_scheduled (link : s.time.link = .running ∨ s.time.link = .stopping) :
    s.tickClock = s.tickSchedule := by
  obtain link | link := link <;> simp only [State.tickClock, out, Bool.false_eq_true, if_false, link]

/-- Inside a turn the tick count advances, and the points reached are raised (R28, R52). -/
theorem tickClock_inside (link : s.time.link = .running ∨ s.time.link = .stopping)
    (inside : s.time.tick + 1 < s.time.timing.turnLength) :
    s.tickClock =
      { s with
        time := { s.time with tick := s.time.tick + 1 }
        pending := s.pending ++ s.pointEvents (s.time.tick + 1) } := by
  rw [tickClock_scheduled out link, State.tickSchedule, if_pos inside]
  rfl

/-- The last tick of a turn in RUNNING (R28 to R31). -/
theorem tickClock_running (running : s.time.link = .running) (last : s.time.timing.turnLength ≤ s.time.tick + 1) :
    s.tickClock =
      let place := nextPlace s.time.slot s.time.position
      let events := s.placeEvents place.1 place.2
      if events.isEmpty then s.moveTo place.1 place.2 else s.raiseEvents events := by
  rw [tickClock_scheduled out (.inl running), State.tickSchedule, if_neg (not_lt.mpr last), State.nextTurn]
  simp only [running, if_true]

/-- The last tick of a turn in STOPPING (R34). -/
theorem tickClock_stopping (stopping : s.time.link = .stopping) (last : s.time.timing.turnLength ≤ s.time.tick + 1) :
    s.tickClock =
      let place := nextPlace s.time.slot s.time.position
      if s.drainEvents.isEmpty then s.moveTo place.1 place.2 else s.raiseEvents s.drainEvents := by
  rw [tickClock_scheduled out (.inr stopping), State.tickSchedule, if_neg (not_lt.mpr last), State.nextTurn]
  simp only [stopping, reduceCtorEq, if_false]

end

/-- The place after a turn position is the turn of the seat that the count of places gives (R28, R29). -/
theorem seatAt?_nextPlace {slot : Fin 64} {position : Fin 3} {n : SeatNo}
    (count : 3 * slot.val + position.val + 1 = n.val + 3) :
    seatAt? (nextPlace slot position).1 (nextPlace slot position).2 = some n := by
  have seats := n.isLt
  have positions := position.isLt
  have next : 3 * (nextPlace slot position).1.val + (nextPlace slot position).2.val = n.val + 3 := by
    unfold nextPlace
    split
    case isTrue last =>
      rw [last] at count
      have two : (2 : Fin 3).val = 2 := rfl
      have zero : (0 : Fin 3).val = 0 := rfl
      have one : (1 : Fin 64).val = 1 := rfl
      rw [zero, Fin.val_add, one]
      omega
    case isFalse before =>
      have notLast : position.val ≠ 2 := fun last => before (Fin.ext last)
      have one : (1 : Fin 3).val = 1 := rfl
      show 3 * slot.val + (position + 1).val = n.val + 3
      rw [Fin.val_add, one]
      omega
  have small := (nextPlace slot position).2.isLt
  rw [seatAt?, dif_pos (by omega)]
  refine congrArg some (Fin.ext ?_)
  show 3 * ((nextPlace slot position).1.val - 1) + (nextPlace slot position).2.val = n.val
  omega

/-- The last tick of a turn in RUNNING that raises events leaves the place to the first of them (R28, log 3). -/
theorem tickClock_raises {s : State} (out : s.inReset = false) (running : s.time.link = .running)
    (last : s.time.timing.turnLength ≤ s.time.tick + 1) (empty : s.pending = []) {events : List Instr}
    (raised : s.placeEvents (nextPlace s.time.slot s.time.position).1 (nextPlace s.time.slot s.time.position).2 = events)
    (some : events ≠ []) : s.tickClock = { s with pending := events } := by
  rw [tickClock_running out running last]
  simp only [raised, List.isEmpty_iff, some, if_false, State.raiseEvents, empty, List.nil_append]

/-- The last tick of a turn in RUNNING that raises no event moves the schedule at once (R28). -/
theorem tickClock_moves {s : State} (out : s.inReset = false) (running : s.time.link = .running)
    (last : s.time.timing.turnLength ≤ s.time.tick + 1)
    (quiet : s.placeEvents (nextPlace s.time.slot s.time.position).1 (nextPlace s.time.slot s.time.position).2 = []) :
    s.tickClock = s.moveTo (nextPlace s.time.slot s.time.position).1 (nextPlace s.time.slot s.time.position).2 := by
  rw [tickClock_running out running last]
  simp only [quiet, List.isEmpty_nil, if_true]

/-- With no turn of a label slot in flight no point is raised (R52). -/
theorem pointEvents_nil {s : State} (noTurn : ∀ turn, s.context ≠ some (.label turn)) (n : Nat) :
    s.pointEvents n = [] := by
  unfold State.pointEvents
  split
  case h_1 turn label => exact absurd label (noTurn turn)
  all_goals rfl

/-- Settles O2: a tick by the state of the engine and, at the end of a turn, by the place that comes next. -/
theorem tickAdvancesSchedule : Obligations.TickAdvancesSchedule := by
  refine ⟨fun s empty => ⟨?still, ?counts, ?expires, ?inside, ?points⟩,
    fun s empty out running idle last => ⟨?turn, ?superframe, ?window, ?closed⟩,
    fun s empty out last slot => ⟨?timeout, ?draining, ?admission, ?windowEnd⟩⟩
  case still =>
    intro still
    have tick : s.tickClock = s := by
      unfold State.tickClock
      split
      · rfl
      case isFalse out =>
        have stopped := still.resolve_left out
        simp only [stopped]
    rw [step_tick empty, tick]
  case counts =>
    intro n out starting settle below
    have more : ¬Config.settleTicks ≤ n + 1 := not_le.mpr below
    have count : min (n + 1) Config.settleTicks = n + 1 := Nat.min_eq_left (Nat.le_of_lt below)
    rw [step_tick empty, tickClock_starting out starting]
    simp only [State.tickSettle, settle, more, if_false, count]
  case expires =>
    intro n out starting settle reached
    have done : Config.settleTicks ≤ n + 1 := reached
    rw [step_tick empty, tickClock_starting out starting]
    simp only [State.tickSettle, settle, done, if_true, Nat.min_eq_right done, State.raiseEvents, empty, List.nil_append]
    rfl
  case inside =>
    intro out link inside noTurn
    rw [step_tick empty, tickClock_inside out link inside, pointEvents_nil noTurn, List.append_nil]
  case points =>
    intro turn out link inside label
    rw [step_tick empty, tickClock_inside out link inside]
    simp only [State.pointEvents, label, empty, List.nil_append]
  case turn =>
    intro n count
    rw [step_tick empty, tickClock_raises out running last empty (events := [.turnStart n s.ready]) ?_ nofun]
    simp only [State.placeEvents, seatAt?_nextPlace count, State.turnStartEvents, idle, List.nil_append]
  case superframe =>
    intro slot position
    rw [step_tick empty, tickClock_raises out running last empty (events := [.superframeStart s.ready]) ?_ nofun]
    rw [slot, position]
    rfl
  case window =>
    intro slot position admission
    rw [step_tick empty, tickClock_raises out running last empty (events := [.joinWindowStart]) ?_ nofun]
    rw [slot, position]
    show s.joinStartEvents = _
    simp only [State.joinStartEvents, idle, admission, if_true, List.nil_append]
  case closed =>
    intro slot position admission
    have place : nextPlace s.time.slot s.time.position = (s.time.slot, 1) := by
      rw [slot, position]
      rfl
    rw [step_tick empty, tickClock_moves out running last, place]
    · rfl
    · rw [slot, position]
      show s.joinStartEvents = _
      simp only [State.joinStartEvents, idle, admission, Bool.false_eq_true, if_false, List.nil_append]
  case timeout =>
    intro turn running position offer
    rw [step_tick empty, tickClock_raises out running last empty
      (events := .offerTurnTimeout :: if s.time.timing.admissionOpen then [.joinWindowStart] else []) ?_ nofun]
    rw [slot, position]
    show s.joinStartEvents = _
    simp only [State.joinStartEvents, offer, List.cons_append, List.nil_append]
  case draining =>
    intro turn stopping position offer
    rw [step_tick empty, tickClock_stopping out stopping last]
    simp only [State.drainEvents, offer, List.isEmpty_cons, Bool.false_eq_true, if_false, State.raiseEvents, empty,
      List.nil_append]
  case admission =>
    intro running position context
    have place : nextPlace s.time.slot s.time.position = (s.time.slot, 2) := by
      rw [slot, position]
      rfl
    rw [step_tick empty, tickClock_moves out running last, place]
    · rfl
    · rw [slot, position]
      rfl
  case windowEnd =>
    intro n running position join
    rw [step_tick empty, tickClock_raises out running last empty
      (events := [.joinWindowEnd, .turnStart 0 s.ready]) ?_ nofun]
    rw [slot, position]
    show s.turnStartEvents 0 = _
    simp only [State.turnStartEvents, join, List.cons_append, List.nil_append]

/-! ## Initial values (R13, R21, R39, R183) -/

/-- Settles O28. -/
theorem resetsTakeInitialValues : Obligations.ResetsTakeInitialValues := by
  intro s
  refine ⟨fun out => ?_, fun held => ?_, rfl, fun held powered => ?_, fun held powered => ?_, fun out => ?_⟩
  · exact congrArg Host.Outcome.next (if_neg (by rw [out]; nofun))
  · exact congrArg Host.Outcome.next (if_pos held)
  · have cause : (if s.poweredUp then ResetCause.line else .power) = .line := if_pos powered
    refine (congrArg Host.Outcome.next (if_pos held)).trans ?_
    rw [cause]
    rfl
  · have cause : (if s.poweredUp then ResetCause.line else .power) = .power := if_neg (by rw [powered]; nofun)
    refine (congrArg Host.Outcome.next (if_pos held)).trans ?_
    rw [cause]
    rfl
  · exact congrArg Host.Outcome.next (if_neg (by rw [out]; nofun))

theorem record_reset (h : Handle) : State.reset.record h = Record.vacant := by simp [State.record, State.reset]

theorem isChanged_reset (h : Handle) : State.reset.isChanged h = false := by simp [State.isChanged, State.reset]

theorem cells_reset (c : CellNo) : State.reset.cells[c.val] = none := by simp [State.reset]

theorem seatState_reset (n : SeatNo) : State.reset.seatState n = .free := by simp [State.seatState, State.reset]

/-- Settles O29. -/
theorem resetStateHoldsInitialValues : Obligations.ResetStateHoldsInitialValues :=
  ⟨record_reset, isChanged_reset, cells_reset, seatState_reset, rfl, rfl, rfl, rfl, rfl, rfl, rfl, rfl, rfl, rfl, rfl, rfl,
    rfl, rfl, rfl, rfl, rfl, rfl, rfl, rfl, rfl, rfl, rfl, rfl⟩

/-- Settles O59: the invariants that the walks keep hold of the reset state, and the others speak of FREE records. -/
theorem resetStateSatisfiesInvariants : Obligations.ResetStateSatisfiesInvariants := by
  have free (h : Handle) : (State.reset.record h).state = .free := by rw [record_reset]; rfl
  have seat (h : Handle) : (State.reset.record h).seat = none := by rw [record_reset]; rfl
  have target (h : Handle) : (State.reset.record h).target = none := by rw [record_reset]; rfl
  have offer : OfferInvariant State.reset :=
    ⟨List.nodup_nil, fun h => ⟨nofun, fun offered => absurd ((free h).symm.trans offered) nofun⟩⟩
  have serial : SerialInvariant State.reset :=
    { valid := fun h occupied => absurd (free h) occupied
      distinct := fun h _ occupied => absurd (free h) occupied
      room := Nat.zero_le _
      once := List.nodup_nil
      entries := nofun
      unknown := nofun }
  have seats : SeatInvariant State.reset :=
    { held := fun n h => by simp [seatState_reset, seat, target]
      present := fun h occupied => absurd (free h) occupied
      vacant := fun h _ => ⟨seat h, target h⟩
      offered := fun h _ => target h
      apart := fun h n here => absurd ((seat h).symm.trans here) nofun
      cooling := fun n k cooling => absurd ((seatState_reset n).symm.trans cooling) nofun }
  exact ⟨portInvariant_iff.mpr ⟨blindInvariant_port.reset, nofun⟩, linkInvariant_initial State.reset .power,
    ranges_iff.mp blindInvariant_ranges.reset, offer, serial, nofun, seats, fieldsInOrder_reset.fields,
    fieldsInOrder_reset.cells⟩

end Sys2Proof.Machine
end


section
/-! PROOFS. Vacating (R12), and FIND SERIAL and LIST STATE (R169): O19 and O20. -/

namespace Sys2Proof.Machine

/-! ## Vacating -/

theorem seatState_setSeat? (s : State) (n : Option SeatNo) (v : Seat) (k : SeatNo) :
    (s.setSeat? n v).seatState k = if n = some k then v else s.seatState k := by
  cases n with
  | none => rfl
  | some n =>
    simp only [State.setSeat?, seatState_setSeat, Option.some.injEq, eq_comm]

/-- The seats after vacating (R12, R45). -/
theorem seatState_vacate (s : State) (h : Handle) (outcome : ReleaseOutcome) (left : Seat) (n : SeatNo) :
    (s.vacate h outcome left).seatState n =
      if (s.record h).seat = some n ∨ (s.record h).target = some n then left else s.seatState n := by
  have seats : (s.vacate h outcome left).seatState n =
      ((s.freeCellsOf (s.record h).fields).setSeat? (s.record h).seat left |>.setSeat?
        (s.record h).target left).seatState n := rfl
  have before : (s.freeCellsOf (s.record h).fields).seatState n = s.seatState n := by
    rw [State.seatState, State.seatState, freeCellsOf_seats]
  rw [seats, seatState_setSeat?, seatState_setSeat?, before]
  by_cases target : (s.record h).target = some n
  · rw [if_pos target, if_pos (.inr target)]
  · simp only [target, or_false, if_false]

/-- The cells after vacating (R12, R20). -/
theorem cells_vacate (s : State) (h : Handle) (outcome : ReleaseOutcome) (left : Seat) (c : CellNo) :
    (s.vacate h outcome left).cells[c.val] =
      if ∃ e ∈ (s.record h).fields, e.cell = c then none else s.cells[c.val] := by
  have cells : (s.vacate h outcome left).cells = (s.freeCellsOf (s.record h).fields).cells := by
    simp only [State.vacate, setRecord_cells, leaveOfferQueue_cells, setSeat?_cells]
  have freed := cells_freeCellsOf (s.record h).fields s c
  simp only [List.mem_map] at freed
  rw [cells]
  exact freed

@[simp] theorem setSeat?_offerQueue (s : State) (n : Option SeatNo) (v : Seat) :
    (s.setSeat? n v).offerQueue = s.offerQueue := by cases n <;> rfl

@[simp] theorem freeCellsOf_offerQueue (s : State) (entries : List FieldEntry) :
    (s.freeCellsOf entries).offerQueue = s.offerQueue := by rw [freeCellsOf_frame]

theorem vacate_offerQueue (s : State) (h : Handle) (outcome : ReleaseOutcome) (left : Seat) :
    (s.vacate h outcome left).offerQueue = s.offerQueue.filter (· ≠ h) := by
  simp only [State.vacate, setRecord_offerQueue, leaveOfferQueue_offerQueue, setSeat?_offerQueue, freeCellsOf_offerQueue]

/-- Settles O19. -/
theorem vacateClearsRecord : Obligations.VacateClearsRecord := fun s h outcome left =>
  ⟨vacate_record s h outcome left, (actsOn_vacate s outcome left).others, seatState_vacate s h outcome left,
    cells_vacate s h outcome left, vacate_offerQueue s h outcome left, vacate_frame s h outcome left⟩

/-! ## The searches -/

theorem recordState?_code (state : RecordState) : recordState? (BitVec.ofNat 8 state.code) = some state := by
  cases state <;> rfl

theorem recordState?_none {b : Byte} (high : 6 ≤ b.toNat) : recordState? b = none := by
  have other (m : Byte) (small : m.toNat < 6) : b ≠ m := by
    rintro rfl
    omega
  simp only [recordState?, other 0 (by decide), other 1 (by decide), other 2 (by decide), other 3 (by decide),
    other 4 (by decide), other 5 (by decide), if_false]

/-- The handles of the records in a state, from a start on. -/
def State.inState (s : State) (state : RecordState) (start : Handle) : List Handle :=
  (List.finRange 160).filter fun h => decide (start ≤ h) && decide ((s.record h).state = state)

theorem mem_inState {s : State} {state : RecordState} {start h : Handle} :
    h ∈ s.inState state start ↔ start ≤ h ∧ (s.record h).state = state := by
  simp [State.inState]

theorem inState_ascending (s : State) (state : RecordState) (start : Handle) :
    (s.inState state start).Pairwise (· < ·) := (List.pairwise_lt_finRange 160).sublist List.filter_sublist

/-- LIST STATE answers the lowest 16 of them (R169). -/
theorem listState_eq (s : State) (state : RecordState) (start : Handle) :
    s.listState state start = (s.inState state start).take 16 := rfl

/-- A handle in the state that LIST STATE leaves out is above all that it returns, and there are 16 of these. -/
theorem listState_left {s : State} {state : RecordState} {start h : Handle} (mem : h ∈ s.inState state start)
    (left : h ∉ s.listState state start) :
    (s.listState state start).length = 16 ∧ ∀ k ∈ s.listState state start, k < h := by
  have ascending := inState_ascending s state start
  rw [listState_eq] at left ⊢
  rw [← List.take_append_drop 16 (s.inState state start)] at mem ascending
  have dropped := (List.mem_append.mp mem).resolve_left left
  refine ⟨?_, fun k taken => (List.pairwise_append.mp ascending).2.2 k taken h dropped⟩
  have long := List.length_pos_of_mem dropped
  rw [List.length_drop] at long
  rw [List.length_take]
  omega

section
variable {s : State} {status : Byte} (hs : s.selected status)
include hs

/-- FIND SERIAL of an invalid serial (R169). -/
theorem exec_findSerial_value {a b c d : Byte} {serial : BitVec 32} (bytes : a ++ b ++ c ++ d = serial)
    (invalid : serial = 0 ∨ serial = 0xFFFFFFFF) :
    exec (.findSerial [a, b, c, d]) s = .next (s.answered status [a, b, c, d] .value []) := by
  refine (command_selected s hs _ _).trans ?_
  have bad : ¬validSerial (word32 a b c d) = true := by
    rw [word32_eq_append, bytes, validSerial_iff]
    tauto
  simp only [bad, Bool.false_eq_true, if_false]
  rfl

/-- FIND SERIAL of a valid serial (R169). -/
theorem exec_findSerial_valid {a b c d : Byte} {serial : BitVec 32} (bytes : a ++ b ++ c ++ d = serial)
    (notZero : serial ≠ 0) (notOnes : serial ≠ 0xFFFFFFFF) {result : ResultCode} {response : List Byte}
    (search : (s.findSerial serial = none ∧ result = .notFound ∧ response = []) ∨
      ∃ h, s.findSerial serial = some h ∧ result = .ok ∧ response = [byteOf h.val]) :
    exec (.findSerial [a, b, c, d]) s = .next (s.answered status [a, b, c, d] result response) := by
  refine (command_selected s hs _ _).trans ?_
  have good : validSerial serial = true := validSerial_iff.mpr ⟨notZero, notOnes⟩
  have same : (s.endTransaction (status :: List.replicate [a, b, c, d].length 0)).findSerial serial =
      s.findSerial serial := rfl
  simp only [word32_eq_append, bytes, good, if_true, same]
  obtain ⟨none, rfl, rfl⟩ | ⟨h, found, rfl, rfl⟩ := search
  · rw [none]
    rfl
  · rw [found]
    rfl

/-- LIST STATE with a parameter out of range (R169). -/
theorem exec_listState_value {b c : Byte} (unread : recordState? b = none ∨ handle? c = none) :
    exec (.listState [b, c]) s = .next (s.answered status [b, c] .value []) := by
  refine command_refused hs fun u => ?_
  simp only
  split
  case h_1 state start => simp [state, start] at unread
  case h_2 => rfl

theorem exec_listState (state : RecordState) (start : Handle) :
    exec (.listState [BitVec.ofNat 8 state.code, byteOf start.val]) s =
      .next (s.answered status [BitVec.ofNat 8 state.code, byteOf start.val] .ok
        (byteOf (s.listState state start).length :: (s.listState state start).map fun h => byteOf h.val)) := by
  refine (command_selected s hs _ _).trans ?_
  simp only [recordState?_code, handle?_byteOf]
  rfl

end

/-- Settles O20: FIND SERIAL by the search for the serial, LIST STATE by the list of which it answers the start. -/
theorem serialAndStateSearches : Obligations.SerialAndStateSearches := by
  refine ⟨fun s status a b c d hs => ⟨exec_findSerial_value hs rfl, fun notZero notOnes unknown => ?_,
    fun notZero notOnes h occupied serial unique => ?_⟩,
    fun s status hs => ⟨fun b c outOfRange => ?_, fun state start => ?_⟩⟩
  · exact exec_findSerial_valid hs rfl notZero notOnes (.inl ⟨(findSerial_none s).mpr unknown, rfl, rfl⟩)
  · have found : s.findSerial (a ++ b ++ c ++ d) = some h := by
      cases search : s.findSerial (a ++ b ++ c ++ d) with
      | none => exact absurd serial ((findSerial_none s).mp search h occupied)
      | some k =>
        obtain ⟨live, carries⟩ := findSerial_some s search
        rw [unique k live carries]
    exact exec_findSerial_valid hs rfl notZero notOnes (.inr ⟨h, found, rfl, rfl⟩)
  · exact exec_listState_value hs (outOfRange.imp recordState?_none handle?_none)
  · refine ⟨s.listState state start, exec_listState hs state start, ?_, List.length_take_le _ _, fun h mem => ?_,
      fun h low here left => listState_left (mem_inState.mpr ⟨low, here⟩) left⟩
    · rw [listState_eq]
      exact (inState_ascending s state start).sublist (List.take_sublist _ _)
    · rw [listState_eq] at mem
      exact mem_inState.mp (List.mem_of_mem_take mem)

end Sys2Proof.Machine
end


section
/-! PROOFS. COMMIT EDIT (R72 to R76, R110, R117, R122, R163 to R165): what it answers in each of its cases, with O25 and
O26. -/

namespace Sys2Proof.Machine

/-! ## The end of the transaction does not move a commit -/

section
variable (s : State) (bytes : List Byte)

theorem writeCells_endTransaction (writes : List (CellNo × List Byte)) :
    (s.endTransaction bytes).writeCells writes = (s.writeCells writes).endTransaction bytes :=
  List.foldl_hom (fun t : State => t.endTransaction bytes) fun _ _ => rfl

theorem createField_endTransaction (h : Handle) (id : FieldId) (value : List Byte) :
    (s.endTransaction bytes).createField h id value = (s.createField h id value).endTransaction bytes := by
  have same : (s.endTransaction bytes).lowestFreeCell = s.lowestFreeCell := rfl
  unfold State.createField
  rw [same]
  cases s.lowestFreeCell <;> rfl

theorem createFields_endTransaction (h : Handle) (fields : List (FieldId × List Byte)) :
    (s.endTransaction bytes).createFields h fields = (s.createFields h fields).endTransaction bytes :=
  List.foldl_hom (fun t : State => t.endTransaction bytes) fun t f => createField_endTransaction t bytes h f.1 f.2

theorem commitFields_endTransaction (h : Handle) (ops : List StagedOp) :
    (s.endTransaction bytes).commitFields h ops = (s.commitFields h ops).endTransaction bytes := by
  show ((((s.endTransaction bytes).freeCellsOf (s.droppedEntries h ops)).writeCells (s.cellWrites h ops)).modifyRecord h
    fun r => { r with fields := s.committedEntries h ops }).createFields h (createdFields (s.record h) ops) = _
  rw [freeCellsOf_endTransaction, writeCells_endTransaction]
  exact createFields_endTransaction
    (((s.freeCellsOf (s.droppedEntries h ops)).writeCells (s.cellWrites h ops)).modifyRecord h
      fun r => { r with fields := s.committedEntries h ops }) bytes h _

theorem commitSeat_endTransaction (h : Handle) (seat : Option SeatNo) :
    (s.endTransaction bytes).commitSeat h seat = (s.commitSeat h seat).endTransaction bytes := by
  cases seat with
  | none => rfl
  | some n =>
    simp only [State.commitSeat, record_endTransaction, setSeat?_endTransaction]
    split <;> rfl

theorem applyCommit_endTransaction (h : Handle) (ops : List StagedOp) (seat : Option SeatNo) :
    (s.endTransaction bytes).applyCommit h ops seat = (s.applyCommit h ops seat).endTransaction bytes := by
  unfold State.applyCommit
  rw [commitFields_endTransaction, commitSeat_endTransaction]
  rfl

end

/-! ## The answers of COMMIT EDIT (R163 to R165) -/

section
variable {s : State} {status : Byte} (hs : s.selected status)
include hs

theorem exec_commitEdit_noEdit (closed : s.edit = none) :
    exec (.commitEdit []) s = .next (s.answered status [] .noEdit []) := by
  refine (command0_selected s hs _).trans ?_
  have same : (s.endTransaction [status]).edit = none := closed
  rw [same]
  rfl

variable {h : Handle} {ops : List StagedOp} (editing : s.edit = some { handle := h, ops := ops })
include editing

/-- A commit that is refused leaves everything but the port (R165). -/
theorem exec_commitEdit_refused {result : ResultCode} (choice : s.commitChoice h ops = .error result) :
    exec (.commitEdit []) s = .next (s.answered status [] result []) := by
  refine (command0_selected s hs _).trans ?_
  have same : (s.endTransaction [status]).edit = some { handle := h, ops := ops } := editing
  have choice : (s.endTransaction [status]).commitChoice h ops = .error result := choice
  simp only [same, choice]
  rfl

/-- A commit that is not refused is applied (R165). -/
theorem exec_commitEdit_applied {seat : Option SeatNo} (choice : s.commitChoice h ops = .ok seat) :
    exec (.commitEdit []) s = .next ((s.applyCommit h ops seat).answered status [] .ok []) := by
  refine (command0_selected s hs _).trans ?_
  have same : (s.endTransaction [status]).edit = some { handle := h, ops := ops } := editing
  have choice : (s.endTransaction [status]).commitChoice h ops = .ok seat := choice
  simp only [same, choice, applyCommit_endTransaction]
  rfl

end

/-! ## The checks (R164) -/

section
variable {s : State} {h : Handle} {ops : List StagedOp}

theorem commitChoice_value (fails : removeFails (s.record h) ((s.record h).fields.map (·.id)) ops = true) :
    s.commitChoice h ops = .error .value := if_pos fails

variable (passes : removeFails (s.record h) ((s.record h).fields.map (·.id)) ops = false)
include passes

theorem commitChoice_tooMany (size : 6 < s.copySize h ops) : s.commitChoice h ops = .error .tooMany := by
  rw [State.commitChoice, if_neg (by rw [passes]; nofun), if_pos (by exact size)]

theorem commitChoice_noCells (size : s.copySize h ops ≤ 6)
    (room : s.freeCellCount + (s.droppedEntries h ops).length < (createdFields (s.record h) ops).length) :
    s.commitChoice h ops = .error .noCells := by
  rw [State.commitChoice, if_neg (by rw [passes]; nofun), if_neg (by exact not_lt.mpr size), if_pos room]

theorem commitChoice_seat (size : s.copySize h ops ≤ 6)
    (room : (createdFields (s.record h) ops).length ≤ s.freeCellCount + (s.droppedEntries h ops).length) :
    s.commitChoice h ops = s.commitSeatChoice h ops := by
  rw [State.commitChoice, if_neg (by rw [passes]; nofun), if_neg (by exact not_lt.mpr size), if_neg (not_lt.mpr room)]

end

section
variable {s : State} {h : Handle} {ops : List StagedOp}

theorem commitSeatChoice_none (change : (s.record h).seatChange ops = none) : s.commitSeatChoice h ops = .ok none := by
  rw [State.commitSeatChoice, change]

variable {request : SeatRequest} (change : (s.record h).seatChange ops = some request)
include change

theorem commitSeatChoice_refused {result : ResultCode} (claim : s.claimSeat request = .error result) :
    s.commitSeatChoice h ops = .error result := by
  simp only [State.commitSeatChoice, change, claim]

theorem commitSeatChoice_state {n : SeatNo} (claim : s.claimSeat request = .ok n)
    (moving : (s.record h).target ≠ none) (state : (s.record h).state ≠ .offered) :
    s.commitSeatChoice h ops = .error .state := by
  simp only [State.commitSeatChoice, change, claim]
  exact if_pos ⟨Option.isSome_iff_ne_none.mpr moving, state⟩

theorem commitSeatChoice_given {n : SeatNo} (claim : s.claimSeat request = .ok n)
    (room : (s.record h).state = .offered ∨ (s.record h).target = none) :
    s.commitSeatChoice h ops = .ok (some n) := by
  simp only [State.commitSeatChoice, change, claim]
  refine if_neg fun both => ?_
  obtain ⟨moving, state⟩ := both
  obtain offered | still := room
  · exact state offered
  · exact Option.isSome_iff_ne_none.mp moving still

end

/-- The seats after a commit (R110, R111). -/
theorem seatState_applyCommit (s : State) (h : Handle) (ops : List StagedOp) (seat : Option SeatNo) (n : SeatNo) :
    (s.applyCommit h ops seat).seatState n =
      if seat = some n then .held h
      else if seat ≠ none ∧ (s.record h).state = .offered ∧ (s.record h).seat = some n then .cooling 128
      else s.seatState n := by
  have changes := changesFields_commitFields s h ops
  have seats : (s.applyCommit h ops seat).seatState n = ((s.commitFields h ops).commitSeat h seat).seatState n := rfl
  have kept (k : SeatNo) : (s.commitFields h ops).seatState k = s.seatState k := by
    rw [changes.frame]
    rfl
  have state : ((s.commitFields h ops).record h).state = (s.record h).state := by rw [changes.record]
  have own : ((s.commitFields h ops).record h).seat = (s.record h).seat := by rw [changes.record]
  rw [seats]
  cases seat with
  | none => simp [State.commitSeat, kept]
  | some m =>
    simp only [State.commitSeat, state, own, Option.some.injEq, ne_eq, reduceCtorEq, not_false_eq_true, true_and]
    split
    case isTrue offered =>
      show State.seatState (((s.commitFields h ops).setSeat? (s.record h).seat .cooled).setSeat m (.held h)) n = _
      rw [seatState_setSeat, seatState_setSeat?, kept]
      simp only [eq_comm (a := n), offered, true_and]
      rfl
    case isFalse mobile =>
      show State.seatState ((s.commitFields h ops).setSeat m (.held h)) n = _
      rw [seatState_setSeat, kept]
      simp only [eq_comm (a := n), mobile, false_and, if_false]

/-! ## A commit of any list of operations -/

/-- The seat change of an edit (R110). -/
theorem seatChange_eq (r : Record) (ops : List StagedOp) :
    r.seatChange ops = match lastOf StagedOp.seat? ops with
      | none => none
      | some .any => some .any
      | some (.named n) => if r.seat = some n then none else some (.named n) := by
  rw [Record.seatChange, lastSeat_eq] <;> rfl

/-- A seat claim is refused with SEAT_TAKEN or NO_SEAT (R44). -/
theorem claimSeat_error {s : State} {request : SeatRequest} {result : ResultCode}
    (claim : s.claimSeat request = .error result) : result = .seatTaken ∨ result = .noSeat := by
  unfold State.claimSeat at claim
  split at claim
  · split at claim <;> cases claim
    exact .inr rfl
  · split at claim <;> cases claim
    exact .inl rfl

/-- What a refused commit answers (R164). -/
theorem commitChoice_error {s : State} {h : Handle} {ops : List StagedOp} {result : ResultCode}
    (choice : s.commitChoice h ops = .error result) :
    result ∈ ([.value, .tooMany, .noCells, .seatTaken, .noSeat, .state] : List ResultCode) := by
  unfold State.commitChoice State.commitSeatChoice at choice
  split at choice
  · cases choice
    decide
  split at choice
  · cases choice
    decide
  split at choice
  · cases choice
    decide
  split at choice
  · cases choice
  split at choice
  case h_1 claim =>
    cases choice
    obtain rfl | rfl := claimSeat_error claim <;> decide
  · split at choice <;> cases choice
    decide

/-- The seat that a commit gives (R44, R110). -/
theorem claimSeat_given {s : State} {change : Option SeatRequest} {n : SeatNo} (free : s.seatState n = .free)
    (asked : change = some (.named n) ∨ (change = some .any ∧ ∀ m, m < n → s.seatState m ≠ .free)) :
    ∃ request, change = some request ∧ s.claimSeat request = .ok n := by
  obtain named | ⟨any, below⟩ := asked
  · exact ⟨_, named, claimSeat_named_free s free⟩
  · exact ⟨_, any, claimSeat_any_lowest s free below⟩

/-- Settles O25: the checks in their order; then what a commit leaves, part by part. -/
theorem commitIsAllOrNothing : Obligations.CommitIsAllOrNothing := by
  refine ⟨fun s status hs => ⟨exec_commitEdit_noEdit hs, fun editing => ?_⟩,
    fun s status h ops hs editing fields cells => ?_⟩
  · obtain ⟨edit, editing⟩ := Option.ne_none_iff_exists'.mp editing
    cases choice : s.commitChoice edit.handle edit.ops with
    | error result => exact .inl ⟨result, commitChoice_error choice, exec_commitEdit_refused hs editing choice⟩
    | ok seat =>
      have frame := applyCommit_frame s edit.handle edit.ops seat
      refine .inr ⟨_, exec_commitEdit_applied hs editing choice, ?_⟩
      have others := fun k => applyCommit_others s edit.handle edit.ops seat (k := k)
      generalize s.applyCommit edit.handle edit.ops seat = t at *
      rw [frame]
      refine ⟨rfl, rfl, rfl, rfl, rfl, rfl, rfl, rfl, rfl, fun e same k other => ?_⟩
      cases editing.symm.trans same
      rw [← frame]
      exact others k other
  · intro r refused absentRemove size created dropped free change given
    have order := fields.order h
    have removing := fields.removing h
    have sizeEq : s.copySize h ops = size := copySize_eq s h ops order removing
    have createdEq : (createdFields r ops).length = created := createdFields_length r ops
    have droppedEq : (s.droppedEntries h ops).length = dropped := droppedEntries_length s h ops order removing
    have passes (none : ¬absentRemove) : removeFails r (r.fields.map (·.id)) ops = false :=
      Bool.eq_false_iff.mpr (mt (removeFails_iff r ops).mp none)
    have changeEq : r.seatChange ops = change := seatChange_eq r ops
    have answers {result : ResultCode} (choice : s.commitChoice h ops = .error result) : refused result :=
      exec_commitEdit_refused hs editing choice
    refine ⟨fun absent => answers (commitChoice_value ((removeFails_iff r ops).mpr absent)),
      fun none big => answers (commitChoice_tooMany (passes none) (sizeEq ▸ big)),
      fun none fits few => answers
        (commitChoice_noCells (passes none) (sizeEq ▸ fits) (by rw [droppedEq, createdEq]; exact few)),
      fun none fits enough => ?_⟩
    have room : (createdFields r ops).length ≤ s.freeCellCount + (s.droppedEntries h ops).length := by
      rw [droppedEq, createdEq]
      exact enough
    have choice := commitChoice_seat (passes none) (sizeEq ▸ fits) room
    refine ⟨fun n named taken => ?_, fun any noneFree => ?_, fun n give state moving => ?_, fun seat seated => ?_⟩
    · exact answers (choice.trans (commitSeatChoice_refused (changeEq.trans named) (claimSeat_named_taken s taken)))
    · exact answers (choice.trans (commitSeatChoice_refused (changeEq.trans any) (claimSeat_any_none s noneFree)))
    · obtain ⟨request, asked, claim⟩ := claimSeat_given give.1 give.2
      exact answers (choice.trans (commitSeatChoice_state (changeEq.trans asked) claim moving state))
    · have chosen : s.commitChoice h ops = .ok seat := by
        obtain ⟨still, rfl⟩ | ⟨n, rfl, ⟨vacant, give⟩, ready⟩ := seated
        · exact choice.trans (commitSeatChoice_none (changeEq.trans still))
        · obtain ⟨request, asked, claim⟩ := claimSeat_given vacant give
          exact choice.trans (commitSeatChoice_given (changeEq.trans asked) claim ready)
      have frame := applyCommit_frame s h ops seat
      have record := applyCommit_record s h ops seat
      rw [lastMode_eq, lastPeriod_eq] at record
      obtain ⟨lists, _, sameCells⟩ := applyCommit_of_commitFields s h ops seat
      obtain ⟨committed, _⟩ := commitFields_spec s h ops fields cells room
      refine ⟨_, exec_commitEdit_applied hs editing chosen, ?_, fun k => applyCommit_others s h ops seat, record,
        seatState_applyCommit s h ops seat, committed.congr lists sameCells⟩
      generalize s.applyCommit h ops seat = t at *
      rw [frame]
      rfl

end Sys2Proof.Machine
end


section
/-! PROOFS. A commit of one operation or none (R72 to R76, R110, R117, R122): O26 and O27. -/

namespace Sys2Proof.Machine

/-! ## A commit that names no field -/

section
variable (s : State) (h : Handle) {ops : List StagedOp}

/-- An entry that no operation names is kept (R72). -/
theorem entryFate_unnamed {e : FieldEntry} (unnamed : lastFieldOp e.id ops = none) :
    s.entryFate h ops e = .kept e := by
  rw [State.entryFate, unnamed]

variable (unnamed : ∀ id, lastFieldOp id ops = none)
include unnamed

theorem committedEntries_unnamed : s.committedEntries h ops = (s.record h).fields := by
  simp only [State.committedEntries, entryFate_unnamed s h (unnamed _), EntryFate.entry?, List.filterMap_some]

theorem droppedEntries_unnamed : s.droppedEntries h ops = [] := by
  simp only [State.droppedEntries, entryFate_unnamed s h (unnamed _), reduceCtorEq, decide_false, List.filter_false]

theorem cellWrites_unnamed : s.cellWrites h ops = [] := by
  simp only [State.cellWrites, entryFate_unnamed s h (unnamed _), EntryFate.write?,
    List.filterMap_eq_nil_iff, implies_true]

theorem createdFields_unnamed (r : Record) : createdFields r ops = [] := by
  rw [createdFields, List.filterMap_eq_nil_iff]
  intro id _
  rw [unnamed id]
  cases r.entry? id <;> rfl

theorem commitFields_unnamed : s.commitFields h ops = s := by
  simp only [State.commitFields, committedEntries_unnamed s h unnamed, droppedEntries_unnamed s h unnamed,
    cellWrites_unnamed s h unnamed, createdFields_unnamed unnamed]
  exact setRecord_record s h

/-- A commit that names no field passes checks 1 to 3 (R164). -/
theorem commitChoice_unnamed (passes : removeFails (s.record h) ((s.record h).fields.map (·.id)) ops = false)
    (room : (s.record h).fields.length ≤ 6) : s.commitChoice h ops = s.commitSeatChoice h ops := by
  refine commitChoice_seat passes ?_ ?_
  · rw [State.copySize, committedEntries_unnamed s h unnamed, createdFields_unnamed unnamed]
    exact room
  · rw [createdFields_unnamed unnamed]
    exact Nat.zero_le _

theorem applyCommit_unnamed (seat : Option SeatNo) :
    s.applyCommit h ops seat = ((s.commitSeat h seat).modifyRecord h fun r =>
      (r.commitMode (lastMode ops)).commitPeriod (lastPeriod ops)).closeEdit := by
  rw [State.applyCommit, commitFields_unnamed s h unnamed]

end

/-- Settles O26: an operation that names no field leaves the fields; then the seat claim and the record's state decide. -/
theorem commitModePeriodSeat : Obligations.CommitModePeriodSeat := by
  refine ⟨fun s status h hs room => ?_, fun s status h request old hs room editing seated held => ?_⟩
  · have applied {ops : List StagedOp} (editing : s.edit = some { handle := h, ops := ops })
        (unnamed : ∀ id, lastFieldOp id ops = none)
        (passes : removeFails (s.record h) ((s.record h).fields.map (·.id)) ops = false)
        (still : (s.record h).seatChange ops = none) :
        exec (.commitEdit []) s = .next ((s.modifyRecord h fun r =>
          (r.commitMode (lastMode ops)).commitPeriod (lastPeriod ops)).closeEdit.answered status [] .ok []) := by
      rw [exec_commitEdit_applied hs editing
        ((commitChoice_unnamed s h unnamed passes room).trans (commitSeatChoice_none still)),
        applyCommit_unnamed s h unnamed]
      rfl
    refine ⟨fun editing => ?_, fun m editing => applied editing (fun _ => rfl) rfl rfl,
      fun v editing => applied editing (fun _ => rfl) rfl rfl⟩
    refine (applied editing (fun _ => rfl) rfl rfl).trans ?_
    show Host.Outcome.next ((s.setRecord h (s.record h)).closeEdit.answered status [] .ok []) = _
    rw [setRecord_record]
    rfl
  · intro mobile
    have choice := commitChoice_unnamed s h (ops := [.seat request]) (fun _ => rfl) rfl room
    have refused {result : ResultCode} (seatChoice : s.commitSeatChoice h [.seat request] = .error result) :
        exec (.commitEdit []) s = .next (s.answered status [] result []) :=
      exec_commitEdit_refused hs editing (choice.trans seatChoice)
    have applied {seat : Option SeatNo} (seatChoice : s.commitSeatChoice h [.seat request] = .ok seat) :
        exec (.commitEdit []) s = .next ((s.commitSeat h seat).closeEdit.answered status [] .ok []) := by
      rw [exec_commitEdit_applied hs editing (choice.trans seatChoice), applyCommit_unnamed s h fun _ => rfl]
      show Host.Outcome.next
        (((s.commitSeat h seat).setRecord h ((s.commitSeat h seat).record h)).closeEdit.answered status [] .ok []) = _
      rw [setRecord_record]
    have change : (s.record h).seatChange [.seat request] =
        match request with
        | .any => some .any
        | .named n => if (s.record h).seat = some n then none else some (.named n) := by
      cases request <;> rfl
    refine ⟨?_, ?_, ?_, fun n free asked => ?_⟩
    · rintro rfl
      exact applied (commitSeatChoice_none (change.trans (if_pos seated)))
    · rintro n rfl other taken
      have change : (s.record h).seatChange [.seat (.named n)] = some (.named n) :=
        change.trans (if_neg (by rw [seated]; exact fun same => other (Option.some.inj same).symm))
      exact refused (commitSeatChoice_refused change (claimSeat_named_taken s taken))
    · rintro rfl noneFree
      exact refused (commitSeatChoice_refused change (claimSeat_any_none s noneFree))
    · have change : (s.record h).seatChange [.seat request] = some request := by
        rw [change]
        obtain rfl | ⟨rfl, _⟩ := asked
        · refine if_neg fun same => ?_
          cases seated.symm.trans same
          exact absurd (free.symm.trans held) nofun
        · rfl
      have claim : s.claimSeat request = .ok n := by
        obtain rfl | ⟨rfl, below⟩ := asked
        · exact claimSeat_named_free s free
        · exact claimSeat_any_lowest s free below
      have moves (mob : mobile) : (s.record h).state ≠ .offered := by
        rintro offered
        obtain state | state | state := mob <;> exact absurd (offered.symm.trans state) nofun
      refine ⟨fun mob moving => refused (commitSeatChoice_state change claim moving (moves mob)), fun mob still => ?_,
        fun offered => ?_⟩
      · rw [applied (commitSeatChoice_given change claim (.inr still)), State.commitSeat, if_neg (moves mob)]
        rfl
      · rw [applied (commitSeatChoice_given change claim (.inl offered)), State.commitSeat, if_pos offered, seated]
        rfl

end Sys2Proof.Machine
end


section
/-! PROOFS. A commit of one field operation (R18, R19, R72 to R76, R164): O27. -/

namespace Sys2Proof.Machine

/-- Where all elements of a list but one are filtered out, that one's image is what is left. -/
theorem filterMap_of_unique {α β : Type} {g : α → Option β} {l : List α} {e : α} (nodup : l.Nodup) (mem : e ∈ l)
    (others : ∀ x ∈ l, x ≠ e → g x = none) : l.filterMap g = (g e).toList := by
  obtain ⟨before, after, rfl⟩ := List.append_of_mem mem
  obtain ⟨_, ⟨fresh, _⟩, apart⟩ := List.nodup_append.mp nodup |>.imp_right (And.imp_left List.nodup_cons.mp)
  have none (part : List α) (sub : ∀ x ∈ part, x ∈ before ++ e :: after) (other : ∀ x ∈ part, x ≠ e) :
      part.filterMap g = [] :=
    List.filterMap_eq_nil_iff.mpr fun x hx => others x (sub x hx) (other x hx)
  have first := none before (by simp +contextual) fun x hx => apart x hx e List.mem_cons_self
  have last := none after (by simp +contextual) fun x hx same => fresh (same ▸ hx)
  rw [List.filterMap_append, List.filterMap_cons, first, last]
  cases g e <;> rfl

/-! ## Free cells -/

/-- The lowest free cell is the free cell with none below it (R18). -/
theorem lowestFreeCell_eq_some {s : State} {c : CellNo} :
    s.lowestFreeCell = some c ↔ s.cells[c.val] = none ∧ ∀ d : CellNo, d < c → s.cells[d.val] ≠ none := by
  rw [State.lowestFreeCell, ← Fin.find?_eq_find?_finRange, Fin.find?_eq_some_iff]
  simp only [Option.isNone_iff_eq_none, Option.isNone_eq_false_iff, Option.isSome_iff_ne_none, ne_eq]

/-- Some cell is free exactly if the number of free cells is not 0 (R18). -/
theorem freeCellCount_pos {s : State} : 0 < s.freeCellCount ↔ ∃ c : CellNo, s.cells[c.val] = none := by
  rw [State.freeCellCount, List.countP_pos_iff]
  constructor
  · rintro ⟨v, mem, free⟩
    obtain ⟨i, hi, rfl⟩ := List.mem_iff_getElem.mp mem
    exact ⟨⟨i, by simpa using hi⟩, by simpa using free⟩
  · rintro ⟨c, free⟩
    exact ⟨none, free ▸ by simp, rfl⟩

theorem insertEntry_perm (e : FieldEntry) (l : List FieldEntry) : (insertEntry e l).Perm (e :: l) := by
  induction l with
  | nil => exact .refl _
  | cons x l ih =>
    unfold insertEntry
    split
    · exact .refl _
    · exact (ih.cons x).trans (.swap e x l)

theorem writeCells_frame (writes : List (CellNo × List Byte)) :
    ∀ s : State, s.writeCells writes = { s with cells := (s.writeCells writes).cells } := by
  induction writes with
  | nil => exact fun _ => rfl
  | cons w ws ih => exact fun s => ih (s.writeCell w.1 w.2)

/-! ## A commit of fields that creates none -/

section
variable {s : State} {h : Handle} {ops : List StagedOp}

/-- A commit that creates no field changes the entries and their cells (R165). -/
theorem commitFields_noneCreated (none : createdFields (s.record h) ops = []) :
    s.commitFields h ops = { s with
      records := s.records.set h.val { s.record h with fields := s.committedEntries h ops }
      cells := ((s.freeCellsOf (s.droppedEntries h ops)).writeCells (s.cellWrites h ops)).cells } := by
  have frame := (writeCells_frame (s.cellWrites h ops) (s.freeCellsOf (s.droppedEntries h ops)))
  rw [freeCellsOf_frame] at frame
  simp only [State.commitFields, none, List.foldl_nil]
  show ((s.freeCellsOf (s.droppedEntries h ops)).writeCells (s.cellWrites h ops)).modifyRecord h _ = _
  rw [freeCellsOf_frame, frame]
  rfl

/-- A commit of fields alone changes the fields alone (R165). -/
theorem applyCommit_fieldsOnly (noMode : lastMode ops = none) (noPeriod : lastPeriod ops = none) :
    s.applyCommit h ops none = (s.commitFields h ops).closeEdit := by
  rw [State.applyCommit, noMode, noPeriod]
  exact congrArg State.closeEdit (setRecord_record (s.commitFields h ops) h)

variable (fields : FieldInvariant s)
include fields

theorem entries_nodup : (s.record h).fields.Nodup :=
  .of_map FieldEntry.id ((fields.order h).imp fun less => ne_of_lt less)

theorem entries_unique {e f : FieldEntry} (he : e ∈ (s.record h).fields) (hf : f ∈ (s.record h).fields)
    (same : f.id = e.id) : f = e :=
  List.inj_on_of_nodup_map ((fields.order h).imp fun less => ne_of_lt less) hf he same

/-- A commit of fields that creates none is applied to the entries and their cells (R165). -/
theorem exec_commitEdit_entries {status : Byte} (hs : s.selected status)
    (editing : s.edit = some { handle := h, ops := ops })
    (passes : removeFails (s.record h) ((s.record h).fields.map (·.id)) ops = false)
    (none : createdFields (s.record h) ops = []) (noSeat : lastSeat ops = .none) (noMode : lastMode ops = .none)
    (noPeriod : lastPeriod ops = .none) :
    exec (.commitEdit []) s = .next ({ s with
      records := s.records.set h.val { s.record h with fields := s.committedEntries h ops }
      cells := ((s.freeCellsOf (s.droppedEntries h ops)).writeCells (s.cellWrites h ops)).cells
      edit := .none }.answered status [] .ok []) := by
  have size : s.copySize h ops ≤ 6 := by
    rw [State.copySize, none]
    exact (List.length_filterMap_le _ _).trans (fields.room h)
  have room : (createdFields (s.record h) ops).length ≤ s.freeCellCount + (s.droppedEntries h ops).length := by
    rw [none]
    exact Nat.zero_le _
  have still : (s.record h).seatChange ops = .none := by rw [Record.seatChange, noSeat]
  rw [exec_commitEdit_applied hs editing ((commitChoice_seat passes size room).trans (commitSeatChoice_none still)),
    applyCommit_fieldsOnly noMode noPeriod, commitFields_noneCreated none]
  rfl

end

/-! ## The one entry that an operation names -/

/-- A staged operation on one field. -/
structure NamesField (id : FieldId) (ops : List StagedOp) : Prop where
  others : ∀ i, i ≠ id → lastFieldOp i ops = none
  noSeat : lastSeat ops = none
  noMode : lastMode ops = none
  noPeriod : lastPeriod ops = none

theorem lastFieldOp_set_one (i id : FieldId) (value : List Byte) :
    lastFieldOp i [.set id value] = if id = i then some (.set value) else none := Option.none_or

theorem lastFieldOp_remove_one (i id : FieldId) :
    lastFieldOp i [.remove id] = if id = i then some .remove else none := Option.none_or

theorem namesField_set (id : FieldId) (value : List Byte) : NamesField id [.set id value] :=
  ⟨fun i other => (lastFieldOp_set_one i id value).trans (if_neg (Ne.symm other)), rfl, rfl, rfl⟩

theorem namesField_remove (id : FieldId) : NamesField id [.remove id] :=
  ⟨fun i other => (lastFieldOp_remove_one i id).trans (if_neg (Ne.symm other)), rfl, rfl, rfl⟩

section
variable {s : State} {status : Byte} {h : Handle} {id : FieldId} {ops : List StagedOp} {e : FieldEntry}
  (hs : s.selected status) (fields : FieldInvariant s) (editing : s.edit = some { handle := h, ops := ops })
  (names : NamesField id ops) (he : e ∈ (s.record h).fields) (own : e.id = id)

include names he own in
/-- A commit that names a field of the record creates none (R72). -/
theorem createdFields_present : createdFields (s.record h) ops = [] := by
  rw [createdFields, List.filterMap_eq_nil_iff]
  intro i _
  by_cases same : i = id
  · have found : (s.record h).entry? i ≠ none := by
      rw [ne_eq, entry?_none, Record.hasField, Bool.not_eq_false, List.any_eq_true]
      exact ⟨e, he, by rw [decide_eq_true_eq, own, same]⟩
    obtain ⟨f, found⟩ := Option.ne_none_iff_exists'.mp found
    rw [found]
  · rw [names.others i same]
    cases (s.record h).entry? i <;> rfl

include fields names he own

/-- The entries that are not named are kept (R72). -/
theorem entryFate_others {x : FieldEntry} (hx : x ∈ (s.record h).fields) (other : x ≠ e) :
    s.entryFate h ops x = .kept x :=
  entryFate_unnamed s h (names.others _ fun same => other (entries_unique fields he hx (same.trans own.symm)))

/-- The entries where the one named is kept or written (R72). -/
theorem committedEntries_one {f : FieldEntry} (left : (s.entryFate h ops e).entry? = some f) :
    s.committedEntries h ops = (s.record h).fields.map fun x => if x = e then f else x := by
  rw [State.committedEntries, ← List.filterMap_eq_map]
  refine List.filterMap_congr fun x hx => ?_
  by_cases same : x = e
  · rw [same, left, Function.comp_apply, if_pos rfl]
  · rw [entryFate_others fields names he own hx same, Function.comp_apply, if_neg same]
    rfl

theorem droppedEntries_one :
    s.droppedEntries h ops = if s.entryFate h ops e = .dropped then [e] else [] := by
  rw [State.droppedEntries, ← List.filterMap_eq_filter, filterMap_of_unique (entries_nodup fields) he]
  · simp only [Option.guard, decide_eq_true_eq]
    split <;> rfl
  · intro x hx other
    rw [Option.guard_eq_none_iff, entryFate_others fields names he own hx other]
    rfl

theorem cellWrites_one : s.cellWrites h ops = (s.entryFate h ops e).write?.toList := by
  rw [State.cellWrites, filterMap_of_unique (entries_nodup fields) he]
  intro x hx other
  rw [entryFate_others fields names he own hx other]
  rfl

include hs editing
variable (passes : removeFails (s.record h) ((s.record h).fields.map (·.id)) ops = false)
include passes

/-- An entry that is kept, marked or not (R74, R75, R76). -/
theorem exec_commitEdit_kept {f : FieldEntry} (fate : s.entryFate h ops e = .kept f) :
    exec (.commitEdit []) s = .next ({ s with
      records := s.records.set h.val { s.record h with
        fields := (s.record h).fields.map fun x => if x = e then f else x }
      edit := none }.answered status [] .ok []) := by
  rw [exec_commitEdit_entries fields hs editing passes (createdFields_present names he own) names.noSeat names.noMode
    names.noPeriod, committedEntries_one fields names he own (f := f) (by rw [fate]; rfl),
    droppedEntries_one fields names he own, cellWrites_one fields names he own, fate]
  rfl

/-- An entry whose cell is rewritten (R72, R75). -/
theorem exec_commitEdit_written {f : FieldEntry} {value : List Byte} (fate : s.entryFate h ops e = .written f value) :
    exec (.commitEdit []) s = .next ({ s with
      records := s.records.set h.val { s.record h with
        fields := (s.record h).fields.map fun x => if x = e then f else x }
      cells := s.cells.set e.cell.val (some value)
      edit := none }.answered status [] .ok []) := by
  have write : (s.entryFate h ops e).write? = some (e.cell, value) := by
    rw [fate, ← written_cell s h ops fate]
    rfl
  rw [exec_commitEdit_entries fields hs editing passes (createdFields_present names he own) names.noSeat names.noMode
    names.noPeriod, committedEntries_one fields names he own (f := f) (by rw [fate]; rfl),
    droppedEntries_one fields names he own, cellWrites_one fields names he own, write, fate]
  rfl

/-- An entry that is dropped (R76). -/
theorem exec_commitEdit_dropped (fate : s.entryFate h ops e = .dropped) :
    exec (.commitEdit []) s = .next ({ s with
      records := s.records.set h.val { s.record h with fields := (s.record h).fields.filter (· ≠ e) }
      cells := s.cells.set e.cell.val none
      edit := none }.answered status [] .ok []) := by
  have left : s.committedEntries h ops = (s.record h).fields.filter (· ≠ e) := by
    rw [State.committedEntries, ← List.filterMap_eq_filter]
    refine List.filterMap_congr fun x hx => ?_
    by_cases same : x = e
    · simp [same, fate, EntryFate.entry?, Option.guard]
    · simp [entryFate_others fields names he own hx same, same, EntryFate.entry?]
  rw [exec_commitEdit_entries fields hs editing passes (createdFields_present names he own) names.noSeat names.noMode
    names.noPeriod, left, droppedEntries_one fields names he own, cellWrites_one fields names he own, fate]
  rfl

/-- An entry that stays as it is (R74). -/
theorem exec_commitEdit_unchanged (fate : s.entryFate h ops e = .kept e) :
    exec (.commitEdit []) s = .next ({ s with edit := none }.answered status [] .ok []) := by
  rw [exec_commitEdit_kept hs fields editing names he own passes fate]
  have same : ((s.record h).fields.map fun x => if x = e then e else x) = (s.record h).fields :=
    List.map_id'' (fun x => by split <;> simp_all) _
  rw [same]
  exact congrArg (fun t : State => Host.Outcome.next (t.closeEdit.answered status [] .ok [])) (setRecord_record s h)

end

/-! ## A created field -/

theorem createField_lowest {s : State} {c : CellNo} (lowest : s.lowestFreeCell = some c) (h : Handle) (id : FieldId)
    (value : List Byte) : s.createField h id value =
      (s.writeCell c value).modifyRecord h fun r => { r with fields := insertEntry (.new id c) r.fields } := by
  unfold State.createField
  rw [lowest]

section
variable {s : State} {h : Handle} {id : FieldId} {value : List Byte} (absent : ∀ e ∈ (s.record h).fields, e.id ≠ id)
include absent

theorem createdFields_absent : createdFields (s.record h) [.set id value] = [(id, value)] := by
  have missing : (s.record h).entry? id = none := by
    rw [entry?_none, Record.hasField, List.any_eq_false]
    exact fun e he => by simpa using absent e he
  rw [createdFields, filterMap_of_unique (List.nodup_finRange 16) (List.mem_finRange id)]
  · rw [missing, lastFieldOp_set_one, if_pos rfl]
    rfl
  · intro i _ other
    rw [(namesField_set id value).others i other]
    cases (s.record h).entry? i <;> rfl

theorem entryFate_absent {e : FieldEntry} (he : e ∈ (s.record h).fields) :
    s.entryFate h [.set id value] e = .kept e :=
  entryFate_unnamed s h ((namesField_set id value).others _ (absent e he))

theorem committedEntries_absent : s.committedEntries h [.set id value] = (s.record h).fields := by
  rw [State.committedEntries]
  refine (List.filterMap_congr fun e he => ?_).trans List.filterMap_some
  rw [entryFate_absent absent he]
  rfl

theorem droppedEntries_absent : s.droppedEntries h [.set id value] = [] := by
  rw [State.droppedEntries, List.filter_eq_nil_iff]
  intro e he
  rw [entryFate_absent absent he]
  exact nofun

theorem cellWrites_absent : s.cellWrites h [.set id value] = [] := by
  rw [State.cellWrites, List.filterMap_eq_nil_iff]
  intro e he
  rw [entryFate_absent absent he]
  rfl

theorem copySize_absent : s.copySize h [.set id value] = (s.record h).fields.length + 1 := by
  rw [State.copySize, committedEntries_absent absent, createdFields_absent absent]
  rfl

theorem commitFields_absent : s.commitFields h [.set id value] = s.createField h id value := by
  simp only [State.commitFields, committedEntries_absent absent, droppedEntries_absent absent, cellWrites_absent absent,
    createdFields_absent absent, State.freeCellsOf, List.foldl_nil, List.foldl_cons]
  have same : (s.modifyRecord h fun r => { r with fields := (s.record h).fields }) = s := setRecord_record s h
  rw [same]

end

/-- Settles O27: the fate of the one entry named, or the creation of one. -/
theorem commitOneFieldOperation : Obligations.CommitOneFieldOperation := by
  intro s status h id hs fields cells _ r unchanged entryBecomes
  refine ⟨fun editing => ⟨fun absent => ?_, fun e he own => ?_⟩,
    fun value editing => ⟨fun absent => ⟨fun full => ?_, fun room noneFree => ?_, fun room c free below => ?_⟩,
      fun e he own => ?_⟩⟩
  · refine exec_commitEdit_refused hs editing (commitChoice_value ?_)
    have missing : (r.fields.map (·.id)).contains id = false := by simpa using absent
    exact if_neg (by rw [missing]; nofun)
  · have passes : removeFails r (r.fields.map (·.id)) [.remove id] = false :=
      if_pos (by simpa using ⟨e, he, own⟩)
    have names := namesField_remove id
    have fate : s.entryFate h [.remove id] e =
        if e.removing then .kept e else if e.sent then .kept { e with removing := true } else .dropped := by
      rw [State.entryFate, lastFieldOp_remove_one, if_pos own.symm]
    refine ⟨fun removing => ?_, fun stays sent => ?_, fun stays fresh => ?_⟩
    · rw [removing] at fate
      exact exec_commitEdit_unchanged hs fields editing names he own passes fate
    · rw [stays, if_neg nofun, if_pos sent] at fate
      exact exec_commitEdit_kept hs fields editing names he own passes fate
    · rw [stays, fresh] at fate
      exact exec_commitEdit_dropped hs fields editing names he own passes fate
  · refine exec_commitEdit_refused hs editing (commitChoice_tooMany rfl ?_)
    rw [copySize_absent absent, full]
    decide
  · refine exec_commitEdit_refused hs editing (commitChoice_noCells rfl ?_ ?_)
    · rw [copySize_absent absent]
      exact room
    · have none : s.freeCellCount = 0 := by
        by_contra some
        obtain ⟨c, free⟩ := freeCellCount_pos.mp (Nat.pos_of_ne_zero some)
        exact noneFree c free
      rw [createdFields_absent absent, droppedEntries_absent absent, none]
      exact Nat.zero_lt_one
  · have size : s.copySize h [.set id value] ≤ 6 := by
      rw [copySize_absent absent]
      exact room
    have cell : (createdFields r [.set id value]).length ≤
        s.freeCellCount + (s.droppedEntries h [.set id value]).length := by
      rw [createdFields_absent absent, droppedEntries_absent absent]
      exact freeCellCount_pos.mpr ⟨c, free⟩
    have lowest : s.lowestFreeCell = some c := lowestFreeCell_eq_some.mpr ⟨free, below⟩
    refine ⟨_, exec_commitEdit_applied hs editing
      ((commitChoice_seat rfl size cell).trans (commitSeatChoice_none rfl)), ?_⟩
    rw [applyCommit_fieldsOnly rfl rfl, commitFields_absent absent, createField_lowest lowest]
    have list : (((s.writeCell c value).modifyRecord h fun r =>
        { r with fields := insertEntry (.new id c) r.fields }).record h).fields =
          insertEntry (.new id c) (s.record h).fields := by
      rw [State.modifyRecord, record_setRecord_self, record_writeCell]
    refine ⟨?_, ?_, ?_, ?_, ?_⟩
    · rfl
    · rfl
    · rfl
    · exact list ▸ insertEntry_perm (.new id c) _
    · exact list ▸ insertEntry_ascending (fields.order h) absent
  · obtain ⟨old, used, _⟩ := cells.owned h e he
    have present : s.cellValue e.cell = value ↔ s.cellOf e = some value := by
      have same : s.cellValue e.cell = (s.cellOf e).getD [] := rfl
      rw [same, used, Option.getD_some, Option.some.injEq]
    have names := namesField_set id value
    have fate : s.entryFate h [.set id value] e =
        if e.removing then .written { e with removing := false, desired := s.steppedVersion h e } value
        else if s.cellValue e.cell = value then .kept e
        else .written { e with desired := s.steppedVersion h e } value := by
      rw [State.entryFate, lastFieldOp_set_one, if_pos own.symm]
    refine ⟨fun stays same => ?_, fun changed => ⟨_, isNextVersion_steppedVersion s h e, ?_⟩⟩
    · rw [stays, if_pos (present.mpr same)] at fate
      exact exec_commitEdit_unchanged hs fields editing names he own rfl fate
    · refine exec_commitEdit_written hs fields editing names he own rfl (fate.trans ?_)
      by_cases removing : e.removing = true
      · exact if_pos removing
      · obtain removed | other := changed
        · exact absurd removed removing
        · rw [if_neg removing, if_neg (mt present.mp other), ← Bool.eq_false_iff.mpr removing]

end Sys2Proof.Machine
end


section
/-! PROOFS. The rows of a turn before its reply: O32, O33, O35, O39, O40. -/

namespace Sys2Proof.Machine

/-! ## The end of a drain, and claims -/

/-- A close in STOPPING ends the drain (R37, R38). -/
theorem endDrain_stopping {s : State} (stopping : s.time.link = .stopping) :
    s.endDrain = s.halt.setFlag .linkState := if_pos stopping

theorem claimLive_iff {s : State} {h : Handle} {generation : BitVec 8} :
    s.claimLive h generation = true ↔ (s.record h).state ≠ .free ∧ (s.record h).generation = generation := by
  simp only [State.claimLive, Bool.and_eq_true, decide_eq_true_eq, beq_iff_eq]

theorem claimLive_eq_false {s : State} {h : Handle} {generation : BitVec 8}
    (void : (s.record h).state = .free ∨ (s.record h).generation ≠ generation) :
    s.claimLive h generation = false := by
  rw [← Bool.not_eq_true, claimLive_iff]
  rintro ⟨occupied, same⟩
  obtain free | other := void
  · exact occupied free
  · exact other same

/-! ## The rows of a turn, by the turn context (R52, R53, R60, R67, R68) -/

section
variable {s : State} (out : s.inReset = false)
include out

theorem exec_turnStart (running : s.time.link = .running) (idle : s.context = none) (n : SeatNo) (ready : Bool) :
    exec (.turnStart n ready) s = .next (s.startTurn n ready) :=
  (event_taken s out _).trans (congrArg Host.Outcome.next (if_pos ⟨running, idle⟩))

section
variable {turn : LabelTurn} (label : s.context = some (.label turn))
include label

theorem exec_downlinkSent_sending (sending : turn.phase = .sending) :
    exec .downlinkSent s = .next (s.labelSent turn) := by
  show execDownlinkSent s = _
  rw [execDownlinkSent, event_taken s out]
  simp only [label, sending, if_true]

theorem exec_downlinkSent_discarded (sent : turn.phase ≠ .sending) : exec .downlinkSent s = .next s := by
  show execDownlinkSent s = _
  rw [execDownlinkSent, event_taken s out]
  simp only [label, sent, if_false]

theorem exec_plannedOpen_waiting (waiting : turn.phase = .waiting) :
    exec .plannedOpen s =
      .next { s.reachTick turn.plannedOpen with context := some (.label { turn with phase := .listening }) } := by
  show execPlannedOpen s = _
  rw [execPlannedOpen, event_taken s out]
  simp only [label, waiting]

theorem exec_plannedOpen_sending (sending : turn.phase = .sending) :
    exec .plannedOpen s = .next (s.reachTick turn.plannedOpen) := by
  show execPlannedOpen s = _
  rw [execPlannedOpen, event_taken s out]
  simp only [label, sending]

theorem exec_plannedOpen_listening (listening : turn.phase = .listening) : exec .plannedOpen s = .next s := by
  show execPlannedOpen s = _
  rw [execPlannedOpen, event_taken s out]
  simp only [label, listening]

theorem exec_plannedClose_sending (sending : turn.phase = .sending) :
    exec .plannedClose s = .next (s.reachTick turn.plannedClose).closeSkipped := by
  show execPlannedClose s = _
  rw [execPlannedClose, event_taken s out]
  simp only [label, sending]

theorem exec_plannedClose_listening (listening : turn.phase = .listening) :
    exec .plannedClose s = .next ((s.reachTick turn.plannedClose).closeNone turn) := by
  show execPlannedClose s = _
  rw [execPlannedClose, event_taken s out]
  simp only [label, listening]

end

theorem exec_downlinkSent_offer {turn : OfferTurn} (offer : s.context = some (.offer turn)) :
    exec .downlinkSent s = .next ({ s with context := none }.countOffer turn).endDrain := by
  show execDownlinkSent s = _
  rw [execDownlinkSent, event_taken s out]
  simp only [offer]

theorem exec_downlinkSent_ignored (idle : s.context = none ∨ ∃ n, s.context = some (.joinWindow n)) :
    exec .downlinkSent s = .next s := by
  show execDownlinkSent s = _
  rw [execDownlinkSent, event_taken s out]
  obtain none | ⟨n, window⟩ := idle
  · simp only [none]
  · simp only [window]

theorem exec_offerTurnTimeout {turn : OfferTurn} (offer : s.context = some (.offer turn)) :
    exec .offerTurnTimeout s = .next ({ s.moveTo 0 1 with context := none }.skipTurn).endDrain := by
  show execOfferTurnTimeout s = _
  rw [execOfferTurnTimeout, event_taken s out]
  simp only [offer]

theorem exec_joinWindowEnd {n : BitVec 16} (window : s.context = some (.joinWindow n)) :
    exec .joinWindowEnd s = .next { s with context := none } := by
  show execJoinWindowEnd s = _
  rw [execJoinWindowEnd, event_taken s out]
  simp only [window]

theorem exec_joinWindowStart_idle (running : s.time.link = .running) (admits : s.time.timing.admissionOpen = true)
    (idle : s.context = none) : exec .joinWindowStart s = .next s.openJoinWindow := by
  show execJoinWindowStart s = _
  rw [execJoinWindowStart, event_taken s out]
  simp only [running, admits, and_self, if_true, idle]

theorem exec_joinWindowStart_offer (running : s.time.link = .running) (admits : s.time.timing.admissionOpen = true)
    {turn : OfferTurn} (offer : s.context = some (.offer turn)) :
    exec .joinWindowStart s = .next ({ s with context := none }.skipTurn).openJoinWindow := by
  show execJoinWindowStart s = _
  rw [execJoinWindowStart, event_taken s out]
  simp only [running, admits, and_self, if_true, offer]

theorem exec_joinWindowStart_closed (closed : s.time.timing.admissionOpen = false ∨ s.time.link ≠ .running) :
    exec .joinWindowStart s = .next s := by
  refine (event_taken s out _).trans (congrArg Host.Outcome.next (if_neg ?_))
  rintro ⟨running, admits⟩
  obtain closed | stopped := closed
  · exact absurd (closed.symm.trans admits) nofun
  · exact stopped running

end

/-! ## A turn start (R53, R59, R60, R65) -/

/-- The state at a turn start: the place is the seat's, and the late reference has gone (R53, R65). -/
def State.atTurn (s : State) (n : SeatNo) (ready : Bool) : State :=
  { s.moveTo (seatSlot n) (seatPosition n) with lateRef := none, ready := ready }

section
variable {s : State} {n : SeatNo} (ready : Bool)

theorem startTurn_vacant (vacant : s.seatState n = .free ∨ ∃ k, s.seatState n = .cooling k) :
    s.startTurn n ready = s.atTurn n ready := by
  simp only [State.startTurn]
  split
  case h_1 k held =>
    have held : s.seatState n = .held k := held
    obtain free | ⟨_, cooling⟩ := vacant
    · exact absurd (free.symm.trans held) nofun
    · exact absurd (cooling.symm.trans held) nofun
  case h_2 | h_3 => rfl

variable {h : Handle} (held : s.seatState n = .held h)
include held

theorem startTurn_held : s.startTurn n ready = (s.atTurn n ready).startHeldTurn n h := by
  simp only [State.startTurn]
  split
  case h_1 k found =>
    cases held.symm.trans found
    rfl
  case h_2 found => exact absurd (held.symm.trans found) nofun
  case h_3 found => exact absurd (held.symm.trans found) nofun

theorem startTurn_asleep (asleep : awake (s.record h).effectiveExponent h s.time.superframe = false) :
    s.startTurn n ready = s.atTurn n ready := by
  refine (startTurn_held ready held).trans (if_neg ?_)
  rintro ⟨_, wakes⟩
  have wakes : awake (s.record h).effectiveExponent h s.time.superframe = true := wakes
  exact absurd (asleep.symm.trans wakes) nofun

variable (occupied : (s.record h).state ≠ .free) (wakes : awake (s.record h).effectiveExponent h s.time.superframe = true)
include occupied wakes

theorem startTurn_skipped : s.startTurn n false = (s.atTurn n false).skipTurn :=
  (startTurn_held false held).trans ((if_pos ⟨occupied, wakes⟩).trans (if_neg nofun))

/-- A turn start with a frame to send (R57). -/
theorem startTurn_builds : s.startTurn n true = (s.atTurn n true).buildFrame n h ((s.record h).turnKind n)
    ((s.atTurn n true).turnWork h ((s.record h).turnKind n)) :=
  (startTurn_held true held).trans ((if_pos ⟨occupied, wakes⟩).trans (if_pos rfl))

end

/-! ## What the closes of a turn in flight leave -/

/-- A drain that a SKIPPED turn ends (R38, R60). -/
theorem endDrain_skipTurn {u : State} (stopping : u.time.link = .stopping) :
    u.skipTurn.endDrain.time.link = .stopped ∧ u.skipTurn.endDrain.context = none ∧
      u.skipTurn.endDrain.flag .linkState = true ∧ u.skipTurn.endDrain.flag .turnSkipped = true ∧
      u.skipTurn.endDrain.records = u.records ∧ u.skipTurn.endDrain.offerQueue = u.offerQueue ∧
      u.skipTurn.endDrain.census = u.census ∧ u.skipTurn.endDrain.port.skipped = min (u.port.skipped + 1) 65535 := by
  rw [endDrain_stopping (s := u.skipTurn) stopping]
  refine ⟨rfl, rfl, ?_, ?_, rfl, rfl, rfl, rfl⟩
  · simp
  · have skipped : (u.skipTurn.halt).flag .turnSkipped = true := flag_setFlag _ _ _ |>.trans (by simp)
    rw [flag_setFlag, skipped]
    rfl

theorem exec_coolingExpiry {s : State} (out : s.inReset = false) (n : SeatNo) :
    exec (.coolingExpiry n) s = .next (s.setSeat n (s.seatState n).expire) :=
  event_taken s out fun s => s.setSeat n (s.seatState n).expire

/-- Settles O32: each row finds its countdown at 0 or does nothing. -/
theorem completionRowsActAtZero : Obligations.CompletionRowsActAtZero := by
  intro s out
  refine ⟨fun n zero => ?_, fun n other => ?_, fun counting last => ?_, fun rest => ?_⟩
  · rw [exec_coolingExpiry out, zero]
    rfl
  · rw [exec_coolingExpiry out]
    have stays : (s.seatState n).expire = s.seatState n := by
      cases state : s.seatState n with
      | cooling k =>
        have running : k ≠ 0 := by
          rintro rfl
          exact other state
        exact if_neg running
      | free | held _ => rfl
    rw [stays]
    exact congrArg (fun seats => Host.Outcome.next { s with seats := seats }) (Vector.set_getElem_self _)
  · exact (event_taken s out _).trans (congrArg Host.Outcome.next (if_pos ⟨counting, last⟩))
  · refine (event_taken s out _).trans (congrArg Host.Outcome.next (if_neg ?_))
    rintro ⟨counting, last⟩
    obtain idle | more := rest
    · exact absurd (counting.symm.trans idle) nofun
    · exact more last

/-- Settles O33: the three rows of the slot, by the turn context. -/
theorem admissionSlotEvents : Obligations.AdmissionSlotEvents := by
  intro s out atWindow
  refine ⟨fun turn offer running => ?_, fun turn offer stopping => ?_, exec_joinWindowStart_idle out,
    fun turn running admits offer => exec_joinWindowStart_offer out running admits offer, exec_joinWindowStart_closed out,
    fun n => exec_joinWindowEnd out⟩
  · rw [exec_offerTurnTimeout out offer, endDrain_of_ne]
    · rfl
    · exact running
  · obtain ⟨link, context, linkState, turnSkipped, records, offerQueue, _, skipped⟩ :=
      endDrain_skipTurn (u := { s.moveTo 0 1 with context := none }) stopping
    exact ⟨_, exec_offerTurnTimeout out offer, link, context, linkState, turnSkipped, records, offerQueue, skipped⟩

/-- Settles O40: the phase decides, and a turn still SENDING at its close point is SKIPPED. -/
theorem plannedPointsBeforeReply : Obligations.PlannedPointsBeforeReply := by
  refine ⟨fun s turn out label => ?_, fun s turn out label sending => ⟨fun running => ?_, fun stopping => ?_⟩⟩
  · intro there
    exact ⟨exec_plannedOpen_waiting out label, exec_plannedOpen_sending out label, exec_plannedOpen_listening out label⟩
  · rw [exec_plannedClose_sending out label sending, State.closeSkipped, endDrain_of_ne]
    · rfl
    · exact fun stopping => absurd (running.symm.trans stopping) nofun
  · obtain ⟨link, context, linkState, turnSkipped, records, _, census, skipped⟩ :=
      endDrain_skipTurn (u := { s.reachTick turn.plannedClose with context := none }) stopping
    exact ⟨_, exec_plannedClose_sending out label sending, link, linkState, turnSkipped, context, records, census, skipped⟩

/-- Settles O35: the state of the seat, then whether its record is awake, then READY. -/
theorem turnStartIdleOrSkipped : Obligations.TurnStartIdleOrSkipped := by
  intro s n ready slot position out running none onSlot onPosition idle
  have place : s.atTurn n ready = idle := by
    have sameSlot : seatSlot n = slot := Fin.ext onSlot.symm
    have samePosition : seatPosition n = position := Fin.ext onPosition.symm
    rw [State.atTurn, sameSlot, samePosition]
    rfl
  have starts := exec_turnStart out running none n ready
  refine ⟨fun vacant => ?_, fun h held occupied => ⟨fun asleep => ?_, fun wakes inactive => ?_⟩⟩
  · rw [starts, startTurn_vacant ready vacant, place]
  · rw [starts, startTurn_asleep ready held asleep, place]
  · subst inactive
    rw [starts, startTurn_skipped held occupied wakes, place]

/-- Settles O39: the turn context and its phase decide; the claim on the record is live or void. -/
theorem downlinkSentEffects : Obligations.DownlinkSentEffects := by
  intro s out
  refine ⟨fun turn label sending => ?_, fun turn offer => ?_,
    fun turn label sent => exec_downlinkSent_discarded out label sent,
    fun idle => exec_downlinkSent_ignored out idle⟩
  · intro r phase moved
    refine ⟨fun occupied same => ?_, fun void => ?_⟩
    · rw [exec_downlinkSent_sending out label sending]
      exact congrArg Host.Outcome.next (if_pos (claimLive_iff (s := moved).mpr ⟨occupied, same⟩))
    · rw [exec_downlinkSent_sending out label sending]
      have dead : moved.claimLive turn.handle turn.generation = false := claimLive_eq_false void
      exact congrArg Host.Outcome.next (if_neg (ne_true_of_eq_false dead))
  · intro r counted drained
    have ends {u : State} (running : u.time.link = .running) : u.endDrain = u :=
      endDrain_of_ne u fun stopping => absurd (running.symm.trans stopping) nofun
    refine ⟨fun offered same => ?_, fun void => ?_⟩
    · have counts : { s with context := none }.countOffer turn = counted := if_pos ⟨offered, same⟩
      rw [exec_downlinkSent_offer out offer, counts]
      refine ⟨fun running => ?_, fun stopping => ?_⟩
      · rw [ends (u := counted) running]
      · rw [endDrain_stopping (s := counted) stopping]
        rfl
    · have counts : { s with context := none }.countOffer turn = { s with context := none } := by
        refine if_neg fun live => ?_
        obtain other | other := void
        · exact other live.1
        · exact other live.2
      rw [exec_downlinkSent_offer out offer, counts]
      refine ⟨fun running => ?_, fun stopping => ?_⟩
      · rw [ends (u := { s with context := none }) running]
      · rw [endDrain_stopping (s := { s with context := none }) stopping]
        rfl

end Sys2Proof.Machine
end


section
/-! PROOFS. Work selection and the build of a frame (R53 to R58, R79 to R81): O36, O37, O38. -/

namespace Sys2Proof.Machine

/-! ## Items (R79) -/

/-- The item of an entry (R17, R79). -/
theorem FieldEntry.item?_eq (e : FieldEntry) :
    e.item? =
      if e.removing then some (.remove e.id)
      else if e.refused = some e.desired ∨ e.confirmed = some e.desired then none
      else some (.set e.id e.desired) := by
  unfold FieldEntry.item? FieldEntry.status
  by_cases removing : e.removing = true
  · simp only [removing, if_true]
  · by_cases refused : e.refused = some e.desired
    · simp only [removing, refused, true_or, if_true]
      rfl
    · by_cases inSync : e.confirmed = some e.desired
      · simp only [removing, refused, inSync, or_true, if_true]
        rfl
      · simp only [removing, refused, inSync, or_self, if_false]
        rfl

/-- An entry has an item if it is REMOVING or PENDING (R79). -/
theorem FieldEntry.item?_isSome (e : FieldEntry) :
    e.item?.isSome = true ↔ e.removing = true ∨ (e.refused ≠ some e.desired ∧ e.confirmed ≠ some e.desired) := by
  rw [FieldEntry.item?_eq, ne_eq, ne_eq, ← not_or]
  by_cases removing : e.removing = true
  · simp [removing]
  · by_cases done : e.refused = some e.desired ∨ e.confirmed = some e.desired <;> simp [removing, done]

theorem Record.hasItems_iff {r : Record} : r.hasItems = true ↔
    ∃ e ∈ r.fields, e.removing = true ∨ (e.refused ≠ some e.desired ∧ e.confirmed ≠ some e.desired) := by
  simp only [Record.hasItems, List.any_eq_true, FieldEntry.item?_isSome]

/-! ## Work selection (R53 to R56) -/

section
variable {s : State} {h : Handle}

theorem Record.turnKind_probe {r : Record} {n : SeatNo} : r.turnKind n = .probe ↔ r.target = some n := by
  unfold Record.turnKind
  split
  case isTrue target => exact iff_of_true rfl target
  case isFalse other => exact iff_of_false nofun other

theorem labelWork_mobile
    (mobile : (s.record h).state = .bound ∨ (s.record h).state = .missing ∨ (s.record h).state = .lost) :
    s.labelWork h = s.priorityWork h := by
  obtain state | state | state := mobile <;> simp only [State.labelWork, state]

theorem turnWork_releasing (releasing : (s.record h).state = .releasing) (kind : TurnKind) :
    s.turnWork h kind = .release := by
  cases kind with
  | probe => exact if_pos releasing
  | label => simp only [State.turnWork, State.labelWork, releasing]

theorem turnWork_probe (state : (s.record h).state ≠ .releasing) : s.turnWork h .probe = .poll := if_neg state

theorem turnWork_offered (offered : (s.record h).state = .offered) (kind : TurnKind) : s.turnWork h kind = .poll := by
  cases kind with
  | probe => exact turnWork_probe fun releasing => absurd (offered.symm.trans releasing) nofun
  | label => simp only [State.turnWork, State.labelWork, offered]

/-- A MOVE comes first (R56). -/
theorem priorityWork_move {m : SeatNo} (target : (s.record h).target = some m) : s.priorityWork h = .move m := by
  simp only [State.priorityWork, target]

section
variable (still : (s.record h).target = none)
include still

/-- Then a MODE, once its hold has run out (R56). -/
theorem priorityWork_mode (waits : (s.record h).modeDesired ≠ (s.record h).modeConfirmed ∧ (s.record h).modeHold = 0) :
    s.priorityWork h = .mode (s.record h).modeDesired := by
  simp only [State.priorityWork, still]
  exact if_pos waits

variable (settled : ¬((s.record h).modeDesired ≠ (s.record h).modeConfirmed ∧ (s.record h).modeHold = 0))
include settled

/-- Then a RETIME (R56). -/
theorem priorityWork_retime {e : Exponent} (pending : (s.record h).pendingPeriod = some e) :
    s.priorityWork h = .retime e := by
  simp only [State.priorityWork, still, pending]
  exact if_neg settled

variable (onTime : (s.record h).pendingPeriod = none)
include onTime

theorem priorityWork_last :
    s.priorityWork h =
      if (s.record h).hasItems && !s.editOpenOn h then .update (s.packUpdate (s.record h)) else .poll := by
  simp only [State.priorityWork, still, onTime]
  exact if_neg settled

/-- Then an UPDATE, with no edit open on the record (R56). -/
theorem priorityWork_update (items : (s.record h).hasItems = true) (closed : s.editOpenOn h = false) :
    s.priorityWork h = .update (s.packUpdate (s.record h)) := by
  rw [priorityWork_last still settled onTime, items, closed]
  rfl

/-- Else a POLL (R56). -/
theorem priorityWork_poll (rest : (s.record h).hasItems = false ∨ s.editOpenOn h = true) : s.priorityWork h = .poll := by
  rw [priorityWork_last still settled onTime]
  obtain none | opened := rest
  · rw [none]
    rfl
  · rw [opened, Bool.not_true, Bool.and_false]
    rfl

end

/-- An UPDATE carries the items that the packing takes, and there is one to take (R56, R80). -/
theorem turnWork_update {kind : TurnKind} {items : List Item} (update : s.turnWork h kind = .update items) :
    items = s.packUpdate (s.record h) ∧ (s.record h).hasItems = true := by
  have fromPriority (update : s.priorityWork h = .update items) :
      items = s.packUpdate (s.record h) ∧ (s.record h).hasItems = true := by
    simp only [State.priorityWork] at update
    split at update
    · cases update
    · split at update
      · cases update
      · split at update
        · cases update
        · split at update
          case isTrue some =>
            cases update
            exact ⟨rfl, (Bool.and_eq_true_iff.mp some).1⟩
          case isFalse => cases update
  cases kind with
  | probe =>
    simp only [State.turnWork, State.probeWork] at update
    split at update <;> cases update
  | label =>
    simp only [State.turnWork, State.labelWork] at update
    split at update
    case h_3 | h_4 | h_5 => exact fromPriority update
    all_goals cases update

end

/-- Settles O36: the kind of the turn, the record's state and the priority decide the work. -/
theorem workSelectionPriority : Obligations.WorkSelectionPriority := by
  intro s n h out running idle held occupied wakes r probe mobile modeWaits items editOpen
  refine ⟨_, (s.atTurn n true).newTurn n h (r.turnKind n) ((s.atTurn n true).turnWork h (r.turnKind n)),
    (exec_turnStart out running idle n true).trans
      (congrArg Host.Outcome.next (startTurn_builds held occupied wakes)), rfl,
    Record.turnKind_probe, fun releasing => turnWork_releasing (s := s.atTurn n true) releasing _,
    fun target state => ?_, fun offered => turnWork_offered (s := s.atTurn n true) offered _, fun own state => ?_⟩
  · have kind : r.turnKind n = .probe := Record.turnKind_probe.mpr target
    rw [kind]
    exact turnWork_probe (s := s.atTurn n true) state
  · have kind : r.turnKind n = .label := if_neg own
    have work : ((s.atTurn n true).newTurn n h (r.turnKind n) ((s.atTurn n true).turnWork h (r.turnKind n))).work =
        (s.atTurn n true).priorityWork h := by
      rw [kind]
      exact labelWork_mobile (s := s.atTurn n true) state
    rw [work]
    have same : (s.atTurn n true).record h = r := rfl
    have hasItems : r.hasItems = true ↔ items := Record.hasItems_iff
    have opened : (s.atTurn n true).editOpenOn h = true ↔ editOpen := editOpenOn_iff (s.atTurn n true)
    refine ⟨fun m target => priorityWork_move target, fun still waits => priorityWork_mode still waits,
      fun still settled e pending => priorityWork_retime still settled pending,
      fun still settled onTime some closed => ⟨_, priorityWork_update still settled onTime (hasItems.mpr some)
        (Bool.eq_false_iff.mpr (mt opened.mp closed))⟩, fun still settled onTime rest => ?_⟩
    exact priorityWork_poll still settled onTime
      (rest.imp (fun none => Bool.eq_false_iff.mpr (mt hasItems.mp none)) opened.mpr)

/-! ## The build (R57, R58, R81, R185) -/

/-- The bytes of an item, bit by bit (11.1). -/
theorem Item.bytes_eq (value : FieldId → List Byte) (item : Item) :
    item.bytes value = match item with
      | .set id version => [0#4 ++ BitVec.ofNat 4 id.val, version, BitVec.ofNat 8 (value id).length] ++ value id
      | .remove id => [1#1 ++ 0#3 ++ BitVec.ofNat 4 id.val, 0] := by
  cases item with
  | set id version =>
    have first : byteOf id.val = 0#4 ++ BitVec.ofNat 4 id.val := by
      revert id
      decide
    rw [Item.bytes, first]
    rfl
  | remove id =>
    have first : byteOf (128 + id.val) = 1#1 ++ 0#3 ++ BitVec.ofNat 4 id.val := by
      revert id
      decide
    rw [Item.bytes, first]

/-- A build advances the next tag and sets sent flags (R57, R58, R81). -/
theorem Record.built_eq (r : Record) (work : Work) :
    r.built work = { r with
      nextTag := r.nextTag + 1
      fields := r.fields.map fun e => { e with sent := e.sent || (match work with
        | .update items => items.any fun item => match item with | .set id _ => id == e.id | .remove _ => false
        | .poll | .mode _ | .retime _ | .move _ | .release => false) } } := by
  cases work with
  | update items => rfl
  | poll | mode _ | retime _ | move _ | release => simp [Record.built]

/-- Settles O37: the context, the record and the frame that the build leaves. -/
theorem turnStartBuildsFrame : Obligations.TurnStartBuildsFrame := by
  intro s n h out running idle held occupied wakes r T W offset
  refine ⟨_, (s.atTurn n true).newTurn n h (r.turnKind n) ((s.atTurn n true).turnWork h (r.turnKind n)), _,
    (exec_turnStart out running idle n true).trans
      (congrArg Host.Outcome.next (startTurn_builds held occupied wakes)), rfl,
    rfl, rfl, rfl, rfl, rfl, rfl, rfl, rfl, rfl, rfl, rfl, ?_, rfl, ?_,
    fun k other => record_setRecord_ne _ _ other, rfl, rfl, rfl, rfl, rfl, rfl, rfl, rfl, rfl⟩
  · exact (record_setRecord_self _ h _).trans (Record.built_eq r _)
  · intro value kind payload body
    have values : (s.atTurn n true).fieldValue r = value := by
      funext id
      simp only [value, State.fieldValue, Record.entry?]
      cases r.fields.find? fun e => decide (e.id = id) <;> rfl
    have kindCode : BitVec.ofNat 4 ((s.atTurn n true).turnWork h (r.turnKind n)).kindCode = kind := by
      simp only [kind, State.newTurn]
      cases (s.atTurn n true).turnWork h (r.turnKind n) <;> rfl
    have bytes : ((s.atTurn n true).turnWork h (r.turnKind n)).payload value = payload := by
      simp only [payload, State.newTurn]
      cases (s.atTurn n true).turnWork h (r.turnKind n) with
      | update items => exact congrArg (items.flatMap ·) (funext (Item.bytes_eq value))
      | mode m => cases m <;> rfl
      | poll | retime _ | move _ | release => rfl
    have frame := downlinkFrame_eq (linkAddress h) ((s.atTurn n true).turnWork h (r.turnKind n)).kindCode r.nextTag r.level
      s.time.superframe (((s.atTurn n true).turnWork h (r.turnKind n)).payload ((s.atTurn n true).fieldValue r))
    rw [values, kindCode, bytes] at frame
    refine Eq.trans ?_ frame
    rw [← bytes, ← values]
    rfl

/-- Settles O38: what the packing takes, for the values of the record's own cells. -/
theorem packingFitsCapacity : Obligations.PackingFitsCapacity := by
  intro s n h t turn items out running idle held fields cells run context update r itemOf idOf cost capacity
  have started := exec_turnStart out running idle n true
  obtain rfl : s.startTurn n true = t := by
    rw [started] at run
    exact Host.Outcome.next.inj run
  have live : (s.record h).state ≠ .free ∧ awake (s.record h).effectiveExponent h s.time.superframe = true := by
    by_contra void
    have nothing : s.startTurn n true = s.atTurn n true := (startTurn_held true held).trans (if_neg void)
    rw [nothing] at context
    exact absurd (idle.symm.trans context) nofun
  obtain ⟨occupied, wakes⟩ := live
  rw [startTurn_builds held occupied wakes] at context
  obtain rfl := TurnContext.label.inj (Option.some.inj context)
  obtain ⟨packed, holds⟩ := turnWork_update (s := s.atTurn n true) update
  have item (e : FieldEntry) : itemOf e = e.item? := (FieldEntry.item?_eq e).symm
  have field (i : Item) : idOf i = i.field := by cases i <;> rfl
  have room : itemCapacity r.level = capacity := rfl
  have costs : ∀ e ∈ r.fields, ∀ i, e.item? = some i → i.cost (s.cellValue e.cell).length = cost i := by
    intro e he i given
    have found : r.fields.find? (fun f => f.id = i.field) = .some e :=
      entry?_of_unique he (item?_field given).symm fun f hf same =>
        entries_unique fields he hf (same.trans (item?_field given))
    cases i with
    | set id v =>
      have found : r.fields.find? (fun f => f.id = id) = some e := found
      simp only [cost, found]
      rfl
    | remove id => rfl
  have items_eq : items = packItems (fun e => (s.cellValue e.cell).length) capacity 6 r.fields := packed
  obtain ⟨fits, few, source, order, exact, all⟩ :=
    packItems_spec (fun e => (s.cellValue e.cell).length) cost r.fields capacity 6 costs (fields.order h) (fields.room h)
  rw [← items_eq] at fits few source order exact all
  have items_some : 1 ≤ items.length := by
    by_contra none
    obtain rfl := List.length_eq_zero_iff.mp (Nat.lt_one_iff.mp (not_le.mp none))
    obtain ⟨e, he, some⟩ := List.any_eq_true.mp holds
    obtain ⟨i, given⟩ := Option.isSome_iff_exists.mp some
    have small : cost i ≤ 15 := by
      rw [← costs e he i given]
      obtain ⟨v, value, _, long⟩ := cells.owned h e he
      have length : (s.cellValue e.cell).length = v.length := by
        have same : s.cellValue e.cell = (s.cellOf e).getD [] := rfl
        rw [same, value, Option.getD_some]
      cases i with
      | set id version => exact length ▸ Nat.add_le_add_left long 3
      | remove id => exact Nat.le_add_left 2 13
    have large : 15 ≤ capacity := by
      simp only [capacity]
      split <;> decide
    exact absurd ((exact e he i given).mpr (small.trans large)) List.not_mem_nil
  simp only [funext item, funext field]
  exact ⟨fits, items_some, few.trans (fields.room h), source, order, exact, all⟩

end Sys2Proof.Machine
end


section
/-! PROOFS. The three ways in which a LISTENING turn closes, and what the close answers (R62 to R66, R131 to R141): O43,
O50. -/

namespace Sys2Proof.Machine

/-! ## An uplink frame, by the turn context (R62 to R65) -/

section
variable {s : State} {frame : Uplink} (out : s.inReset = false)
include out

theorem exec_uplinkFrame_label {turn : LabelTurn} (label : s.context = some (.label turn)) :
    exec (.uplinkFrame frame) s =
      .next (if turn.phase = .listening then s.takeReply turn (classifyUplink frame) else s) := by
  show execUplinkFrame frame s = _
  rw [execUplinkFrame, event_taken s out]
  simp only [State.takeFrame, label]

theorem exec_uplinkFrame_offer {turn : OfferTurn} (offer : s.context = some (.offer turn)) :
    exec (.uplinkFrame frame) s = .next s := by
  show execUplinkFrame frame s = _
  rw [execUplinkFrame, event_taken s out]
  simp only [State.takeFrame, offer]

theorem exec_uplinkFrame_window {n : BitVec 16} (window : s.context = some (.joinWindow n)) :
    exec (.uplinkFrame frame) s = .next (s.takeJoinFrame (classifyUplink frame)) := by
  show execUplinkFrame frame s = _
  rw [execUplinkFrame, event_taken s out]
  simp only [State.takeFrame, window]

theorem exec_uplinkFrame_idle (idle : s.context = none) :
    exec (.uplinkFrame frame) s = .next (s.takeLate (classifyUplink frame)) := by
  show execUplinkFrame frame s = _
  rw [execUplinkFrame, event_taken s out]
  simp only [State.takeFrame, idle]

end

/-- A frame that is neither DAMAGED nor the ACK awaited is a stray (R63). -/
theorem takeReply_stray {s : State} {turn : LabelTurn} {frame : Decoded} (sound : frame ≠ .damaged)
    (other : ∀ ack corrected, frame ≠ .ack (linkAddress turn.handle) turn.tag ack corrected) :
    s.takeReply turn frame = s := by
  cases frame with
  | damaged => exact absurd rfl sound
  | ack address tag ack corrected =>
    refine if_neg ?_
    rintro ⟨rfl, rfl⟩
    exact other ack corrected rfl
  | join _ _ _ _ | other => rfl

/-- An ACK that equals the late reference is a late reply (R65). -/
theorem takeLate_late {s : State} {ref : LateReference} (late : s.lateRef = some ref) (ack : Ack) (corrected : Nat) :
    s.takeLate (.ack ref.address ref.tag ack corrected) = s.countLate := by
  simp only [State.takeLate, late, and_self, if_true]

theorem takeLate_other {s : State} {ref : LateReference} {frame : Decoded} (late : s.lateRef = some ref)
    (other : ∀ ack corrected, frame ≠ .ack ref.address ref.tag ack corrected) : s.takeLate frame = s := by
  simp only [State.takeLate, late]
  cases frame with
  | ack address tag ack corrected =>
    refine if_neg ?_
    rintro ⟨rfl, rfl⟩
    exact other ack corrected rfl
  | damaged | join _ _ _ _ | other => rfl

theorem takeLate_none {s : State} (none : s.lateRef = .none) (frame : Decoded) : s.takeLate frame = s := by
  simp only [State.takeLate, none]

/-- Settles O43: the turn context, then the late reference, decide what a frame is. -/
theorem strayAndLateReplies : Obligations.StrayAndLateReplies := by
  intro s frame out
  refine ⟨fun turn label deaf => ?_, fun turn => exec_uplinkFrame_offer out, fun turn label listening sound other => ?_,
    fun idle none => ?_, fun ref idle late => ⟨?_, fun other => ?_⟩⟩
  · rw [exec_uplinkFrame_label out label, if_neg deaf]
  · rw [exec_uplinkFrame_label out label, if_pos listening, takeReply_stray sound other]
  · rw [exec_uplinkFrame_idle out idle, takeLate_none none]
  · rintro ⟨ack, corrected, same⟩
    rw [exec_uplinkFrame_idle out idle, same, takeLate_late late]
    rfl
  · rw [exec_uplinkFrame_idle out idle, takeLate_other late other]

/-! ## The close of a LISTENING turn -/

/-- The rows that close a LISTENING turn, each with its outcome (R64, R65). -/
inductive Closes (turn : LabelTurn) : Instr → TurnOutcome → Prop where
  | noReply : Closes turn .plannedClose .noReply
  | damaged {frame : Uplink} : classifyUplink frame = .damaged → Closes turn (.uplinkFrame frame) .damaged
  | good {frame : Uplink} {corrected : Nat} {ack : Ack} :
      classifyUplink frame = .ack (linkAddress turn.handle) turn.tag ack corrected →
      Closes turn (.uplinkFrame frame) (.good corrected ack)

/-- The state in which a turn closes, its context gone: a NONE comes at the planned close point and keeps the late
reference (R65). -/
def State.atClose (s : State) (turn : LabelTurn) (outcome : TurnOutcome) : State :=
  match outcome with
  | .noReply =>
    { s.reachTick turn.plannedClose with
      lateRef := some { address := linkAddress turn.handle, tag := turn.tag }, context := none }
  | .good _ _ | .damaged => { s with context := none }

/-- What the claim on the Label Table leaves of a state whose turn closes (R66). -/
def State.claimed (s : State) (turn : LabelTurn) (outcome : TurnOutcome) : State :=
  (s.atClose turn outcome).applyClose turn outcome

theorem exec_closes {s : State} {turn : LabelTurn} {row : Instr} {outcome : TurnOutcome} (out : s.inReset = false)
    (label : s.context = some (.label turn)) (listening : turn.phase = .listening) (closes : Closes turn row outcome) :
    exec row s = .next ((s.claimed turn outcome).countCensus outcome).endDrain := by
  cases closes with
  | noReply =>
    rw [exec_plannedClose_listening out label listening]
    rfl
  | damaged frame =>
    rw [exec_uplinkFrame_label out label, if_pos listening, frame]
    rfl
  | good frame =>
    rw [exec_uplinkFrame_label out label, if_pos listening, frame]
    exact congrArg Host.Outcome.next (if_pos ⟨rfl, rfl⟩)

/-- A close that changes, in a state that the claim left, nothing but the census, CENSUS_DONE and attention. -/
structure Counted (u t : State) : Prop where
  frame : t =
    { u with census := t.census, port := { u.port with flags := t.port.flags, attention := t.port.attention } }
  flags : ∀ f, f ≠ .censusDone → t.flag f = u.flag f

theorem counted_countCensus (u : State) (outcome : TurnOutcome) : Counted u (u.countCensus outcome) :=
  ⟨countCensus_frame u outcome, fun _ other => flag_countCensus u outcome other⟩

namespace Counted

variable {u t : State} (c : Counted u t)
include c

theorem records : t.records = u.records := by rw [c.frame]
theorem changed : t.changed = u.changed := by rw [c.frame]
theorem cells : t.cells = u.cells := by rw [c.frame]
theorem seats : t.seats = u.seats := by rw [c.frame]
theorem time : t.time = u.time := by rw [c.frame]
theorem context : t.context = u.context := by rw [c.frame]
theorem lateRef : t.lateRef = u.lateRef := by rw [c.frame]
theorem joinQueue : t.joinQueue = u.joinQueue := by rw [c.frame]
theorem offerQueue : t.offerQueue = u.offerQueue := by rw [c.frame]
theorem edit : t.edit = u.edit := by rw [c.frame]
theorem record (k : Handle) : t.record k = u.record k := by rw [c.frame]; rfl
theorem isChanged (k : Handle) : t.isChanged k = u.isChanged k := by rw [c.frame]; rfl
theorem seatState (n : SeatNo) : t.seatState n = u.seatState n := by rw [c.frame]; rfl
theorem cellOf (e : FieldEntry) : t.cellOf e = u.cellOf e := by rw [c.frame]; rfl

end Counted

section
variable (s : State) (turn : LabelTurn) (outcome : TurnOutcome)

/-- Up to the claim a close leaves every part but the time and the two references to the turn. -/
theorem atClose_frame : s.atClose turn outcome =
    { s with time := (s.atClose turn outcome).time, lateRef := (s.atClose turn outcome).lateRef, context := none } := by
  cases outcome <;> rfl

theorem sameLink_atClose : (s.atClose turn outcome).time.link = s.time.link := by
  cases outcome <;> rfl

@[simp] theorem record_atClose (k : Handle) : (s.atClose turn outcome).record k = s.record k := by
  cases outcome <;> rfl

@[simp] theorem isChanged_atClose (k : Handle) : (s.atClose turn outcome).isChanged k = s.isChanged k := by
  cases outcome <;> rfl

@[simp] theorem flag_atClose (f : EventFlag) : (s.atClose turn outcome).flag f = s.flag f := by
  cases outcome <;> rfl

@[simp] theorem claimLive_atClose (h : Handle) (generation : BitVec 8) :
    (s.atClose turn outcome).claimLive h generation = s.claimLive h generation := by
  cases outcome <;> rfl

theorem actsOn_claimed : ActsOn turn.handle (s.atClose turn outcome) (s.claimed turn outcome) :=
  actsOn_applyClose _ turn outcome

/-- A close whose claim is void (R2, R66). -/
theorem claimed_void {s : State} {turn : LabelTurn}
    (void : (s.record turn.handle).state = .free ∨ (s.record turn.handle).generation ≠ turn.generation)
    (outcome : TurnOutcome) : s.claimed turn outcome = s.atClose turn outcome :=
  if_neg (by rw [claimLive_atClose, claimLive_eq_false void]; nofun)

end

/-- What a close in RUNNING leaves. -/
theorem exec_closes_running {s : State} {turn : LabelTurn} {row : Instr} {outcome : TurnOutcome} (out : s.inReset = false)
    (running : s.time.link = .running) (label : s.context = some (.label turn)) (listening : turn.phase = .listening)
    (closes : Closes turn row outcome) :
    ∃ t, exec row s = .next t ∧ Counted (s.claimed turn outcome) t := by
  refine ⟨_, (exec_closes out label listening closes).trans (congrArg Host.Outcome.next (endDrain_of_ne _ ?_)),
    counted_countCensus _ outcome⟩
  have counted := counted_countCensus (s.claimed turn outcome) outcome
  rw [counted.time, (actsOn_claimed s turn outcome).time, sameLink_atClose, running]
  nofun

/-! ## The event flags that the claim can set -/

/-- From one state to the other no event flag but these is set. -/
def SetsOnly (causes : List EventFlag) (s t : State) : Prop := ∀ f, f ∉ causes → t.flag f = s.flag f

theorem SetsOnly.of_port {causes : List EventFlag} {s t : State} (same : t.port = s.port) : SetsOnly causes s t :=
  fun f _ => by rw [State.flag, State.flag, same]

theorem SetsOnly.rfl {causes : List EventFlag} {s : State} : SetsOnly causes s s := .of_port (.refl _)

theorem SetsOnly.trans {causes : List EventFlag} {s t u : State} (a : SetsOnly causes s t) (b : SetsOnly causes t u) :
    SetsOnly causes s u := fun f other => (b f other).trans (a f other)

theorem SetsOnly.mono {causes more : List EventFlag} {s t : State} (a : SetsOnly causes s t) (sub : causes ⊆ more) :
    SetsOnly more s t := fun f other => a f fun mem => other (sub mem)

section
variable {s : State} {h : Handle}

theorem setsOnly_setFlag (f : EventFlag) : SetsOnly [f] s (s.setFlag f) := by
  intro g other
  rw [flag_setFlag, decide_eq_false (by simpa using other), Bool.or_false]

theorem setsOnly_markChanged : SetsOnly [.changed] s (s.markChanged h) := by
  intro f other
  rw [flag_markChanged, decide_eq_false (by simpa using other), Bool.or_false]

theorem setsOnly_markChangedIf (b : Bool) : SetsOnly [.changed] s (s.markChangedIf b h) := by
  cases b
  · exact .rfl
  · exact setsOnly_markChanged

theorem setsOnly_report (heard : Heard) (ack : Ack) : SetsOnly [.changed] s (s.report h heard ack) :=
  .trans (.of_port rfl) (setsOnly_markChangedIf _)

theorem setsOnly_completeRelease (outcome : ReleaseOutcome) (left : Seat) :
    SetsOnly [.released, .changed] s (s.completeRelease h outcome left) :=
  .trans (.of_port (vacate_port s h outcome left)) (.trans ((setsOnly_setFlag _).mono (by decide))
    (setsOnly_markChanged.mono (by decide)))

theorem setsOnly_bind : SetsOnly [.changed] s (s.bind h) := .trans (.of_port rfl) setsOnly_markChanged

theorem setsOnly_confirmMove : SetsOnly [.changed] s (s.confirmMove h) := by
  unfold State.confirmMove
  split
  · exact .rfl
  · refine .trans (.of_port ?_) setsOnly_markChanged
    show (s.setSeat? _ _).port = s.port
    rw [setSeat?_frame]

theorem setsOnly_acknowledgeItem (item : Item) (refused : Bool) :
    SetsOnly [.refused] s (s.acknowledgeItem h item refused) := by
  obtain ⟨t, changes, same | same⟩ := changesFields_acknowledgeItem s h item refused
  all_goals
    have port : t.port = s.port := by rw [changes.frame]
    rw [same]
  · exact .of_port port
  · exact .trans (.of_port port) (setsOnly_setFlag _)

theorem setsOnly_acknowledgeFrom (refusals : BitVec 6) (items : List Item) :
    ∀ (i : Nat) {s : State}, SetsOnly [.refused] s (s.acknowledgeFrom h refusals i items) := by
  induction items with
  | nil => exact fun _ _ => .rfl
  | cons item items ih => exact fun i _ => .trans (setsOnly_acknowledgeItem item _) (ih (i + 1))

theorem setsOnly_acknowledgeUpdate (items : List Item) (refusals : BitVec 6) :
    SetsOnly [.refused, .changed] s (s.acknowledgeUpdate h items refusals) :=
  ((setsOnly_acknowledgeFrom refusals items 0).mono (by decide)).trans ((setsOnly_markChangedIf _).mono (by decide))

theorem setsOnly_confirmWork (work : Work) (ack : Ack) : SetsOnly [.refused, .changed] s (s.confirmWork h work ack) := by
  cases work with
  | update items => exact setsOnly_acknowledgeUpdate items _
  | mode _ | retime _ => exact (SetsOnly.of_port rfl).trans (setsOnly_markChanged.mono (by decide))
  | move _ =>
    simp only [State.confirmWork]
    split
    · exact setsOnly_confirmMove.mono (by decide)
    · exact .rfl
  | poll | release => exact .rfl

theorem setsOnly_goodEffects (turn : LabelTurn) (ack : Ack) :
    SetsOnly [.refused, .changed] s (s.goodEffects turn ack) := by
  unfold State.goodEffects
  split
  case h_1 => exact setsOnly_bind.mono (by decide)
  case h_2 | h_3 | h_4 => exact setsOnly_confirmWork _ ack
  case h_5 | h_6 | h_7 => exact setsOnly_confirmMove.mono (by decide)
  case h_8 | h_9 | h_10 => exact .rfl

theorem setsOnly_replyEffects (turn : LabelTurn) (outcome : TurnOutcome) :
    SetsOnly [.released, .refused, .changed] s (s.replyEffects turn outcome) := by
  have completes {left : Seat} {how : ReleaseOutcome} :
      SetsOnly [.released, .refused, .changed] s (s.completeRelease turn.handle how left) :=
    (setsOnly_completeRelease how left).mono (by decide)
  have unanswered : SetsOnly [.released, .refused, .changed] s (s.releaseUnanswered turn) := by
    unfold State.releaseUnanswered
    split
    · exact completes
    · exact .rfl
  cases outcome with
  | good corrected ack =>
    simp only [State.replyEffects]
    split
    · exact completes
    · exact (setsOnly_goodEffects turn ack).mono (by decide)
  | damaged | noReply => exact unanswered

theorem setsOnly_judgeTurn (turn : LabelTurn) (outcome : TurnOutcome) (before : Record) :
    SetsOnly [.lost, .changed] s (s.judgeTurn turn outcome before) := by
  simp only [State.judgeTurn]
  have marked : SetsOnly [.lost, .changed] s ((s.setRecord turn.handle
      ((s.record turn.handle).judge s.limits turn outcome before).record).markChangedIf
        ((s.record turn.handle).judge s.limits turn outcome before).changed turn.handle) :=
    .trans (.of_port rfl) ((setsOnly_markChangedIf _).mono (by decide))
  split
  · exact marked.trans ((setsOnly_setFlag _).mono (by decide))
  · exact marked

theorem setsOnly_closeReport (turn : LabelTurn) (outcome : TurnOutcome) :
    SetsOnly [.changed] s (s.closeReport turn outcome) := by
  cases outcome with
  | good _ ack => exact setsOnly_report _ ack
  | damaged | noReply => exact .rfl

/-- The claim sets no event flag but these (R66). -/
theorem setsOnly_applyClose (turn : LabelTurn) (outcome : TurnOutcome) :
    SetsOnly [.lost, .released, .refused, .changed] s (s.applyClose turn outcome) := by
  unfold State.applyClose
  split
  · have effects : SetsOnly [.lost, .released, .refused, .changed] s
        ((s.closeReport turn outcome).replyEffects turn outcome) :=
      ((setsOnly_closeReport turn outcome).mono (by decide)).trans
        ((setsOnly_replyEffects turn outcome).mono (by decide))
    simp only
    split
    · exact effects
    · exact effects.trans ((setsOnly_judgeTurn turn outcome _).mono (by decide))
  · exact .rfl

end

/-! ## A close in any state of the link -/

/-- The end of a drain leaves the Label Table, the cells, the seats, the queues and the census (R38). -/
theorem endDrain_frame (u : State) :
    u.endDrain = { u with
      time := u.endDrain.time, context := u.endDrain.context, lateRef := u.endDrain.lateRef
      port := u.endDrain.port } := by
  unfold State.endDrain
  split <;> rfl

theorem setsOnly_endDrain (u : State) : SetsOnly [.linkState] u u.endDrain := by
  unfold State.endDrain
  split
  · exact .trans (.of_port rfl) (setsOnly_setFlag _)
  · exact .rfl

theorem context_endDrain {u : State} (none : u.context = .none) : u.endDrain.context = .none := by
  unfold State.endDrain
  split
  · rfl
  · exact none

/-- The census and the end of a drain leave the Label Table, the cells, the seats and the queues (R38, R145). -/
theorem endDrain_countCensus_frame (u : State) (outcome : TurnOutcome) :
    (u.countCensus outcome).endDrain = { u with
      time := (u.countCensus outcome).endDrain.time, context := (u.countCensus outcome).endDrain.context
      lateRef := (u.countCensus outcome).endDrain.lateRef, port := (u.countCensus outcome).endDrain.port
      census := (u.countCensus outcome).endDrain.census } := by
  have counted := (counted_countCensus u outcome).frame
  have ended := endDrain_frame (u.countCensus outcome)
  generalize (u.countCensus outcome).endDrain = t at *
  rw [ended, counted]

/-- The census after a close: IDLE it stays, COUNTING it counts and ends on the last turn (R145). -/
theorem census_of_closes {s : State} {turn : LabelTurn} {row : Instr} {outcome : TurnOutcome} (out : s.inReset = false)
    (label : s.context = some (.label turn)) (listening : turn.phase = .listening) (closes : Closes turn row outcome) :
    ∃ t, exec row s = .next t ∧
      (s.census.state = .idle → t.census = s.census ∧ t.flag .censusDone = s.flag .censusDone) ∧
      (s.census.state = .counting → 1 < s.census.remaining →
        t.census =
          { s.census with remaining := s.census.remaining - 1, running := s.census.running.count outcome } ∧
        t.flag .censusDone = s.flag .censusDone) ∧
      (s.census.state = .counting → s.census.remaining ≤ 1 →
        t.census =
          { state := .idle, remaining := 0, running := s.census.running.count outcome
            latched := s.census.running.count outcome } ∧
        t.flag .censusDone = true) := by
  refine ⟨_, exec_closes out label listening closes, ?_⟩
  have before : (s.claimed turn outcome).census = s.census := by
    rw [(actsOn_claimed s turn outcome).census]
    exact (congrArg State.census (atClose_frame s turn outcome)).trans rfl
  have flag : (s.claimed turn outcome).flag .censusDone = s.flag .censusDone :=
    (setsOnly_applyClose turn outcome _ (by decide)).trans (flag_atClose s turn outcome _)
  have census : ∀ u : State, u.endDrain.census = u.census := fun u => by rw [endDrain_frame]
  have done : ∀ u : State, u.endDrain.flag .censusDone = u.flag .censusDone := fun u => setsOnly_endDrain u _ (by decide)
  generalize s.claimed turn outcome = u at *
  rw [census, done, ← before, ← flag]
  refine ⟨fun idle => ?_, fun counting more => ?_, fun counting last => ?_⟩
  · rw [countCensus_idle outcome idle]
    exact ⟨rfl, rfl⟩
  · rw [countCensus_more outcome counting more]
    exact ⟨rfl, rfl⟩
  · rw [countCensus_last outcome counting last]
    exact ⟨rfl, flag_setFlag _ _ _ |>.trans (by simp)⟩

/-- Settles O50: a void claim leaves the state at the close, and the census counts every close. -/
theorem voidCloseChangesNoRecord : Obligations.VoidCloseChangesNoRecord := by
  refine ⟨fun s turn row out label listening void kind => ?_, fun s turn row counts out label listening => ?_⟩
  · have closes : ∃ outcome, Closes turn row outcome := by
      obtain rfl | ⟨frame, rfl, damaged | ⟨ack, corrected, good⟩⟩ := kind
      · exact ⟨_, .noReply⟩
      · exact ⟨_, .damaged damaged⟩
      · exact ⟨_, .good good⟩
    obtain ⟨outcome, closes⟩ := closes
    obtain ⟨t, run, idle, more, last⟩ := census_of_closes out label listening closes
    have same := run.symm.trans (exec_closes out label listening closes)
    obtain rfl := Host.Outcome.next.inj same
    rw [claimed_void void outcome] at *
    have idleContext : ((s.atClose turn outcome).countCensus outcome).context = none := by
      rw [(counted_countCensus _ outcome).context, atClose_frame]
    have frame := endDrain_countCensus_frame (s.atClose turn outcome) outcome
    have before := atClose_frame s turn outcome
    refine ⟨_, run, context_endDrain idleContext, ?_, ?_, ?_, ?_, ?_, ?_, fun state => (idle state).1, fun state => ?_⟩
    case refine_7 =>
      rcases lt_or_ge 1 s.census.remaining with many | few
      · rw [(more state many).1]
      · rw [(last state few).1]
        exact (Nat.sub_eq_zero_of_le few).symm
    all_goals
      generalize ((s.atClose turn outcome).countCensus outcome).endDrain = t at *
      generalize s.atClose turn outcome = w at *
      rw [frame, before]
  · intro c kind
    obtain ⟨rfl, rfl⟩ | ⟨frame, rfl, damaged, rfl⟩ | ⟨frame, ack, corrected, rfl, good, rfl⟩ := kind
    · exact census_of_closes out label listening .noReply
    · exact census_of_closes out label listening (.damaged damaged)
    · exact census_of_closes out label listening (.good good)

end Sys2Proof.Machine
end


section
/-! PROOFS. The quality part of a close (R131 to R141): O41, O42, O51. -/

namespace Sys2Proof.Machine

/-- Two records with the same level, policy, floor and quality window. -/
structure SameWindow (r q : Record) : Prop where
  windowTurns : q.windowTurns = r.windowTurns := by rfl
  windowBad : q.windowBad = r.windowBad := by rfl
  level : q.level = r.level := by rfl
  cleanWindows : q.cleanWindows = r.cleanWindows := by rfl
  policy : q.policy = r.policy := by rfl
  floor : q.floor = r.floor := by rfl

/-! ## The Quality Monitor on a record -/

section
variable (r : Record) (limits : QualityLimits)

/-- A counted turn moves the quality window and the level alone; a change of level is reported (R132 to R134). -/
theorem Record.addToWindow_frame (bad : Bool) :
    (r.addToWindow limits bad).record =
        { r with
          windowTurns := (r.addToWindow limits bad).record.windowTurns
          windowBad := (r.addToWindow limits bad).record.windowBad
          level := (r.addToWindow limits bad).record.level
          cleanWindows := (r.addToWindow limits bad).record.cleanWindows } ∧
      (r.addToWindow limits bad).changed = decide ((r.addToWindow limits bad).record.level ≠ r.level) := by
  rcases le_or_gt limits.windowLength (r.windowTurns + 1) with full | room
  · rw [Record.addToWindow_ended bad full]
    refine ⟨?_, rfl⟩
    rw [Record.windowVerdict_frame]
    rfl
  · rw [Record.addToWindow_open bad room]
    exact ⟨rfl, (decide_eq_false (not_not.mpr rfl)).symm⟩

variable (turn : LabelTurn) (outcome : TurnOutcome) (before : Record)

/-- Beside the miss effects the monitor moves the quality window and the level alone; a change of level is reported
(R131). -/
theorem Record.judge_frame :
    (r.judge limits turn outcome before).record =
        { (r.missEffects limits turn outcome before).record with
          windowTurns := (r.judge limits turn outcome before).record.windowTurns
          windowBad := (r.judge limits turn outcome before).record.windowBad
          level := (r.judge limits turn outcome before).record.level
          cleanWindows := (r.judge limits turn outcome before).record.cleanWindows } ∧
      (r.judge limits turn outcome before).lost = (r.missEffects limits turn outcome before).lost ∧
      (r.judge limits turn outcome before).changed =
        ((r.missEffects limits turn outcome before).changed ||
          decide ((r.judge limits turn outcome before).record.level ≠
            (r.missEffects limits turn outcome before).record.level)) := by
  cases counts : countedTurn turn outcome before with
  | true =>
    rw [Record.judge_counted counts]
    obtain ⟨record, changed⟩ :=
      (r.missEffects limits turn outcome before).record.addToWindow_frame limits (badTurn limits outcome)
    exact ⟨record, rfl, congrArg ((r.missEffects limits turn outcome before).changed || ·) changed⟩
  | false =>
    rw [Record.judge_uncounted counts]
    refine ⟨rfl, rfl, ?_⟩
    rw [decide_eq_false (not_not.mpr rfl), Bool.or_false]

/-- The miss effects leave the level and the quality window (R131). -/
theorem Record.missEffects_window : SameWindow r (r.missEffects limits turn outcome before).record := by
  unfold Record.missEffects
  split
  case h_2 =>
    split
    · rcases le_or_gt limits.missLimit (r.missCount + 1) with reached | below
      · rw [Record.missInBound_reached reached]
        exact {}
      · rw [Record.missInBound_below below]
        exact {}
    · exact {}
  case h_6 =>
    split
    · rcases le_or_gt limits.huntLength (r.huntMisses + 1) with reached | below
      · by_cases round : r.huntCandidate.next = r.offset
        · rw [Record.missInHunt_ends reached round]
          exact {}
        · rw [Record.missInHunt_moves reached round]
          exact {}
      · rw [Record.missInHunt_below below]
        exact {}
    · exact {}
  case h_5 => split <;> exact {}
  all_goals exact {}

end

/-! ## Which turns are charged and counted (R132, R135) -/

theorem chargedMiss_iff {turn : LabelTurn} {before : Record} :
    chargedMiss turn before = true ↔
      turn.kind = .label ∧ (before.state = .bound ∨ before.state = .missing) ∧
        before.passesCadence turn.handle turn.superframe := by
  simp only [chargedMiss, Bool.and_eq_true, decide_eq_true_eq, Record.cadenceTest_iff, and_assoc]

theorem countedTurn_iff {turn : LabelTurn} {outcome : TurnOutcome} {before : Record} :
    countedTurn turn outcome before = true ↔
      turn.kind = .label ∧ (before.state = .bound ∨ before.state = .missing ∨ before.state = .lost) ∧
        (outcome = .noReply → chargedMiss turn before = true) := by
  cases outcome <;> simp [countedTurn, and_assoc]

/-- A record that has nothing to judge: its state takes no miss effect and the turn does not count. -/
theorem Record.judge_quiet {r : Record} {limits : QualityLimits} {turn : LabelTurn} {outcome : TurnOutcome}
    {before : Record} (quiet : r.missEffects limits turn outcome before = r.quiet)
    (uncounted : countedTurn turn outcome before ≠ true) : r.judge limits turn outcome before = r.quiet := by
  rw [Record.judge_uncounted (Bool.eq_false_iff.mpr uncounted), quiet]

/-! ## Step 3 of a close (R66, R131) -/

section
variable (s : State) (turn : LabelTurn) (outcome : TurnOutcome) (before : Record)

/-- The judgement changes the record, the changed set and the event flags. -/
theorem judgeTurn_frame :
    s.judgeTurn turn outcome before = { s with
      records := (s.judgeTurn turn outcome before).records, changed := (s.judgeTurn turn outcome before).changed
      port := (s.judgeTurn turn outcome before).port } := by
  simp only [State.judgeTurn, State.markChangedIf]
  split <;> split <;> rfl

theorem record_judgeTurn :
    (s.judgeTurn turn outcome before).record turn.handle =
      ((s.record turn.handle).judge s.limits turn outcome before).record := by
  simp only [State.judgeTurn]
  split <;> simp

theorem changed_judgeTurn (quiet : ((s.record turn.handle).judge s.limits turn outcome before).changed = false) :
    (s.judgeTurn turn outcome before).changed = s.changed := by
  simp only [State.judgeTurn, quiet]
  split <;> rfl

theorem isChanged_judgeTurn :
    (s.judgeTurn turn outcome before).isChanged turn.handle =
      (((s.record turn.handle).judge s.limits turn outcome before).changed || s.isChanged turn.handle) := by
  have marked := isChanged_markChangedIf (s.setRecord turn.handle
    ((s.record turn.handle).judge s.limits turn outcome before).record)
      ((s.record turn.handle).judge s.limits turn outcome before).changed turn.handle turn.handle
  rw [decide_eq_true rfl, Bool.and_true] at marked
  simp only [State.judgeTurn]
  split
  · exact marked
  · exact marked

theorem flag_judgeTurn (f : EventFlag) :
    (s.judgeTurn turn outcome before).flag f =
      (s.flag f || (((s.record turn.handle).judge s.limits turn outcome before).changed && decide (f = .changed)) ||
        (((s.record turn.handle).judge s.limits turn outcome before).lost && decide (f = .lost))) := by
  simp only [State.judgeTurn]
  split
  case isTrue lost => rw [flag_setFlag, flag_markChangedIf, flag_setRecord, lost, Bool.true_and]
  case isFalse kept => rw [flag_markChangedIf, flag_setRecord, Bool.eq_false_iff.mpr kept, Bool.false_and, Bool.or_false]

/-- A judgement that finds nothing leaves the state. -/
theorem judgeTurn_quiet
    (quiet : (s.record turn.handle).judge s.limits turn outcome before = (s.record turn.handle).quiet) :
    s.judgeTurn turn outcome before = s := by
  simp only [State.judgeTurn, quiet]
  exact setRecord_record s turn.handle

end

/-! ## A close that completes no release and binds nothing -/

/-- A turn that completes no release: it carried no RELEASE, its record is not RELEASING, or RELEASEs are left (R151 to
R154). -/
def State.releaseOpen (s : State) (turn : LabelTurn) : Prop :=
  turn.work ≠ .release ∨ (s.record turn.handle).state ≠ .releasing ∨ (s.record turn.handle).attempts < 4

theorem releaseUnanswered_open {s : State} {turn : LabelTurn} (opened : s.releaseOpen turn) :
    s.releaseUnanswered turn = s := by
  refine if_neg ?_
  rintro ⟨release, spent⟩
  simp only [State.releaseTurn, Bool.and_eq_true, decide_eq_true_eq] at release
  obtain ⟨carried, releasing⟩ := release
  obtain other | other | few := opened
  · exact other carried
  · exact other releasing
  · exact absurd spent (not_le.mpr few)

/-- NONE and DAMAGED are judged alone, where no release completes (R66). -/
theorem claimed_unanswered {s : State} {turn : LabelTurn} {outcome : TurnOutcome}
    (live : (s.record turn.handle).state ≠ .free ∧ (s.record turn.handle).generation = turn.generation)
    (bad : outcome = .noReply ∨ outcome = .damaged) (opened : s.releaseOpen turn) :
    s.claimed turn outcome = (s.atClose turn outcome).judgeTurn turn outcome (s.record turn.handle) := by
  have opened : (s.atClose turn outcome).releaseOpen turn := by
    rw [State.releaseOpen, record_atClose]
    exact opened
  have reported : (s.atClose turn outcome).closeReport turn outcome = s.atClose turn outcome := by
    obtain rfl | rfl := bad <;> rfl
  have effects : (s.atClose turn outcome).replyEffects turn outcome = s.atClose turn outcome := by
    obtain rfl | rfl := bad <;> exact releaseUnanswered_open opened
  have isLive : (s.atClose turn outcome).claimLive turn.handle turn.generation = true := by
    rw [claimLive_atClose]
    exact claimLive_iff.mpr live
  rw [State.claimed, State.applyClose, if_pos isLive]
  simp only [reported, effects, record_atClose, if_neg live.1]

/-- What a close leaves that is judged alone, with `j` the judgement. -/
structure JudgedAlone (s : State) (turn : LabelTurn) (outcome : TurnOutcome) (j : Judged) (t : State) : Prop where
  context : t.context = none
  lateRef : t.lateRef = (s.atClose turn outcome).lateRef
  record : t.record turn.handle = j.record
  others : ∀ k, k ≠ turn.handle → t.record k = s.record k ∧ t.isChanged k = s.isChanged k
  isChanged : t.isChanged turn.handle = (j.changed || s.isChanged turn.handle)
  changed : j.changed = false → t.changed = s.changed
  flag : ∀ f, f ≠ .censusDone →
    t.flag f = (s.flag f || (j.changed && decide (f = .changed)) || (j.lost && decide (f = .lost)))
  cells : t.cells = s.cells
  seats : t.seats = s.seats
  offerQueue : t.offerQueue = s.offerQueue
  joinQueue : t.joinQueue = s.joinQueue

theorem exec_closes_judged {s : State} {turn : LabelTurn} {row : Instr} {outcome : TurnOutcome} (out : s.inReset = false)
    (running : s.time.link = .running) (label : s.context = some (.label turn)) (listening : turn.phase = .listening)
    (closes : Closes turn row outcome)
    (live : (s.record turn.handle).state ≠ .free ∧ (s.record turn.handle).generation = turn.generation)
    (bad : outcome = .noReply ∨ outcome = .damaged) (opened : s.releaseOpen turn) :
    ∃ t, exec row s = .next t ∧ JudgedAlone s turn outcome
      ((s.record turn.handle).judge s.limits turn outcome (s.record turn.handle)) t := by
  obtain ⟨t, run, counted⟩ := exec_closes_running out running label listening closes
  rw [claimed_unanswered live bad opened] at counted
  have acts := actsOn_judgeTurn (s.atClose turn outcome) turn outcome (s.record turn.handle)
  have frame := judgeTurn_frame (s.atClose turn outcome) turn outcome (s.record turn.handle)
  have before := atClose_frame s turn outcome
  have limits : (s.atClose turn outcome).limits = s.limits := by rw [before]
  have record := record_judgeTurn (s.atClose turn outcome) turn outcome (s.record turn.handle)
  have isChanged := isChanged_judgeTurn (s.atClose turn outcome) turn outcome (s.record turn.handle)
  have changed := changed_judgeTurn (s.atClose turn outcome) turn outcome (s.record turn.handle)
  have flag := flag_judgeTurn (s.atClose turn outcome) turn outcome (s.record turn.handle)
  simp only [record_atClose, isChanged_atClose, flag_atClose, limits] at record isChanged changed flag
  refine ⟨t, run, ?_, ?_, ?_, fun k other => ⟨?_, ?_⟩, ?_, fun quiet => ?_, fun f other => ?_, ?_, ?_, ?_, ?_⟩
  · rw [counted.context, acts.context, before]
  · rw [counted.lateRef, acts.lateRef]
  · rw [counted.record, record]
  · rw [counted.record, acts.others k other, record_atClose]
  · rw [counted.isChanged, acts.marks k other, isChanged_atClose]
  · rw [counted.isChanged, isChanged]
  · rw [counted.changed, changed quiet, before]
  · rw [counted.flags f other, flag]
  · rw [counted.cells, frame, before]
  · rw [counted.seats, frame, before]
  · rw [counted.offerQueue, frame, before]
  · rw [counted.joinQueue, frame, before]

/-! ## Charged misses -/

section
variable {r : Record} {limits : QualityLimits} {turn : LabelTurn}

theorem Record.missEffects_bound (bound : r.state = .bound) (charged : chargedMiss turn r = true) :
    r.missEffects limits turn .noReply r = r.missInBound limits := by
  simp only [Record.missEffects, bound, charged, if_true]

theorem Record.missEffects_missing (missing : r.state = .missing) (charged : chargedMiss turn r = true) :
    r.missEffects limits turn .noReply r = r.missInHunt limits := by
  simp only [Record.missEffects, missing, charged, if_true]

theorem Record.missEffects_uncharged (uncharged : chargedMiss turn r ≠ true) :
    r.missEffects limits turn .noReply r = r.quiet := by
  cases state : r.state <;> simp only [Record.missEffects, state, if_neg uncharged]

end

theorem closes_unanswered {turn : LabelTurn} {row : Instr}
    (rows : row = .plannedClose ∨ ∃ frame, row = .uplinkFrame frame ∧ classifyUplink frame = .damaged) :
    ∃ outcome, Closes turn row outcome ∧ (outcome = .noReply ∨ outcome = .damaged) := by
  obtain rfl | ⟨frame, rfl, bad⟩ := rows
  · exact ⟨_, .noReply, .inl rfl⟩
  · exact ⟨_, .damaged bad, .inr rfl⟩

/-- A close that is judged alone, and finds nothing, leaves all but the census and CENSUS_DONE. -/
theorem exec_closes_quiet {s : State} {turn : LabelTurn} {row : Instr} {outcome : TurnOutcome} (out : s.inReset = false)
    (running : s.time.link = .running) (label : s.context = some (.label turn)) (listening : turn.phase = .listening)
    (closes : Closes turn row outcome)
    (live : (s.record turn.handle).state ≠ .free ∧ (s.record turn.handle).generation = turn.generation)
    (bad : outcome = .noReply ∨ outcome = .damaged) (opened : s.releaseOpen turn)
    (quiet : (s.record turn.handle).missEffects s.limits turn outcome (s.record turn.handle) =
      (s.record turn.handle).quiet)
    (uncounted : countedTurn turn outcome (s.record turn.handle) ≠ true) :
    ∃ t, exec row s = .next t ∧ Counted (s.atClose turn outcome) t := by
  obtain ⟨t, run, counted⟩ := exec_closes_running out running label listening closes
  have limits : (s.atClose turn outcome).limits = s.limits := by rw [atClose_frame]
  rw [claimed_unanswered live bad opened, judgeTurn_quiet] at counted
  · exact ⟨t, run, counted⟩
  · rw [record_atClose, limits]
    exact Record.judge_quiet quiet uncounted

/-- Settles O41: the miss in BOUND, by the miss limit. -/
theorem chargedMissOnBoundRecord : Obligations.ChargedMissOnBoundRecord := by
  intro s turn out running label listening own r bound same passes
  have live : r.state ≠ .free ∧ r.generation = turn.generation := ⟨by rw [bound]; nofun, same⟩
  have opened : s.releaseOpen turn := .inr (.inl fun releasing => absurd (bound.symm.trans releasing) nofun)
  obtain ⟨t, run, judged⟩ := exec_closes_judged out running label listening .noReply live (.inl rfl) opened
  have missed : r.missEffects s.limits turn .noReply r = r.missInBound s.limits :=
    Record.missEffects_bound bound (chargedMiss_iff.mpr ⟨own, .inl bound, passes⟩)
  obtain ⟨record, lost, changed⟩ := r.judge_frame s.limits turn .noReply r
  rw [missed] at record lost changed
  change JudgedAlone s turn .noReply (r.judge s.limits turn .noReply r) t at judged
  generalize r.judge s.limits turn .noReply r = j at *
  have changedFlag := judged.flag .changed (by decide)
  have lostFlag := judged.flag .lost (by decide)
  refine ⟨t, run, judged.context, judged.lateRef, ?_⟩
  rcases le_or_gt s.limits.missLimit (r.missCount + 1) with reached | below
  · rw [Record.missInBound_reached reached] at record lost changed
    rw [judged.record, judged.isChanged, changedFlag, lostFlag, record, lost, changed]
    refine ⟨rfl, fun below => absurd reached (not_le.mpr below),
      fun _ => ⟨rfl, rfl, rfl, rfl, ?_⟩, rfl, rfl, rfl, rfl, rfl,
      rfl, judged.others, judged.seats, judged.cells, judged.offerQueue, ?_⟩
    · simp
    · simp
  · rw [Record.missInBound_below below] at record lost changed
    rw [judged.record, lostFlag, record, lost]
    refine ⟨rfl, fun _ => ⟨bound, rfl, rfl⟩, fun reached => absurd reached (not_le.mpr below), rfl, rfl, rfl, rfl, rfl,
      rfl, judged.others, judged.seats, judged.cells, judged.offerQueue, ?_⟩
    simp [Record.quiet]

/-- NONE and DAMAGED have no miss effect on an OFFERED record, nor in a PROBE turn (R95, R115). -/
theorem Record.missEffects_idle {r : Record} {limits : QualityLimits} {turn : LabelTurn} {outcome : TurnOutcome}
    (bad : outcome = .noReply ∨ outcome = .damaged)
    (idle : turn.kind = .probe ∨ r.state = .offered ∨ r.state = .releasing) :
    r.missEffects limits turn outcome r = r.quiet := by
  have uncharged : chargedMiss turn r ≠ true := by
    rw [ne_eq, chargedMiss_iff]
    rintro ⟨label, linked, _⟩
    obtain probe | offered | releasing := idle
    · exact absurd (probe.symm.trans label) nofun
    · obtain state | state := linked <;> exact absurd (offered.symm.trans state) nofun
    · obtain state | state := linked <;> exact absurd (releasing.symm.trans state) nofun
  obtain rfl | rfl := bad
  · exact Record.missEffects_uncharged uncharged
  · cases state : r.state with
    | missing =>
      obtain probe | offered | releasing := idle
      · simp only [Record.missEffects, state, probe, reduceCtorEq, if_false]
      · exact absurd (state.symm.trans offered) nofun
      · exact absurd (state.symm.trans releasing) nofun
    | free | offered | bound | lost | releasing => simp only [Record.missEffects, state]

/-- No turn of an OFFERED or RELEASING record counts, nor does a PROBE turn (R132). -/
theorem countedTurn_idle {turn : LabelTurn} {before : Record}
    (idle : turn.kind = .probe ∨ before.state = .offered ∨ before.state = .releasing) (outcome : TurnOutcome) :
    countedTurn turn outcome before ≠ true := by
  rw [ne_eq, countedTurn_iff]
  rintro ⟨label, linked, _⟩
  obtain probe | idle := idle
  · exact absurd (probe.symm.trans label) nofun
  · obtain offered | releasing := idle <;> obtain state | state | state := linked
    case inl.inl | inl.inr.inl | inl.inr.inr => exact absurd (offered.symm.trans state) nofun
    case inr.inl | inr.inr.inl | inr.inr.inr => exact absurd (releasing.symm.trans state) nofun

/-- Settles O42: the closes that find nothing; then the miss in MISSING, by the hunt length and the round of offsets. -/
theorem huntMovesOnOrLoses : Obligations.HuntMovesOnOrLoses := by
  refine ⟨fun s turn row out running label listening => ?_, fun s turn out running label listening own => ?_⟩
  · intro r damaged same kind
    have quiet : ∃ outcome, Closes turn row outcome ∧ (outcome = .noReply ∨ outcome = .damaged) ∧ r.state ≠ .free ∧
        r.state ≠ .releasing ∧ r.missEffects s.limits turn outcome r = r.quiet ∧ countedTurn turn outcome r ≠ true := by
      obtain ⟨rfl, own, linked, fails⟩ | ⟨rows, probe, linked⟩ | ⟨rows, offered⟩ | ⟨rfl, lost⟩ := kind
      · have uncharged : chargedMiss turn r ≠ true := mt chargedMiss_iff.mp fun all => fails all.2.2
        refine ⟨_, .noReply, .inl rfl, ?_, ?_, Record.missEffects_uncharged uncharged, ?_⟩
        · obtain state | state := linked <;> rw [state] <;> nofun
        · obtain state | state := linked <;> rw [state] <;> nofun
        · exact mt countedTurn_iff.mp fun all => uncharged (all.2.2 rfl)
      · obtain ⟨outcome, closes, bad⟩ := closes_unanswered rows
        refine ⟨outcome, closes, bad, ?_, ?_, Record.missEffects_idle bad (.inl probe), countedTurn_idle (.inl probe) _⟩
        · obtain state | state | state := linked <;> rw [state] <;> nofun
        · obtain state | state | state := linked <;> rw [state] <;> nofun
      · obtain ⟨outcome, closes, bad⟩ := closes_unanswered rows
        exact ⟨outcome, closes, bad, by rw [offered]; nofun, by rw [offered]; nofun,
          Record.missEffects_idle bad (.inr (.inl offered)), countedTurn_idle (.inr (.inl offered)) _⟩
      · have uncharged : chargedMiss turn r ≠ true := by
          rw [ne_eq, chargedMiss_iff]
          rintro ⟨_, state | state, _⟩ <;> exact absurd (lost.symm.trans state) nofun
        exact ⟨_, .noReply, .inl rfl, by rw [lost]; nofun, by rw [lost]; nofun, Record.missEffects_uncharged uncharged,
          mt countedTurn_iff.mp fun all => uncharged (all.2.2 rfl)⟩
    obtain ⟨outcome, closes, bad, occupied, staying, nothing, uncounted⟩ := quiet
    obtain ⟨t, run, counted⟩ := exec_closes_quiet out running label listening closes ⟨occupied, same⟩ bad
      (.inr (.inl staying)) nothing uncounted
    have before := atClose_frame s turn outcome
    refine ⟨t, run, ?_, ?_, ?_, ?_, ?_, ?_, ?_, fun f other => ?_⟩
    · rw [counted.context, before]
    · rw [counted.records, before]
    · rw [counted.changed, before]
    · rw [counted.seats, before]
    · rw [counted.cells, before]
    · rw [counted.offerQueue, before]
    · rw [counted.joinQueue, before]
    · rw [counted.flags f other, flag_atClose]
  · intro r next missing same
    have live : r.state ≠ .free ∧ r.generation = turn.generation := ⟨by rw [missing]; nofun, same⟩
    have opened : s.releaseOpen turn := .inr (.inl fun releasing => absurd (missing.symm.trans releasing) nofun)
    refine ⟨fun frame bad => ?_, ?_⟩
    · obtain ⟨t, run, judged⟩ := exec_closes_judged out running label listening (.damaged bad) live (.inr rfl) opened
      have missed : r.missEffects s.limits turn .damaged r = { r with huntMisses := 0 }.quiet := by
        simp only [Record.missEffects, missing, own, if_true]
      have record := (r.judge_frame s.limits turn .damaged r).1
      rw [missed] at record
      refine ⟨t, run, ?_⟩
      rw [judged.record, record]
      exact ⟨missing, rfl, rfl, rfl⟩
    · obtain ⟨t, run, judged⟩ := exec_closes_judged out running label listening .noReply live (.inl rfl) opened
      obtain ⟨record, lost, changed⟩ := r.judge_frame s.limits turn .noReply r
      change JudgedAlone s turn .noReply (r.judge s.limits turn .noReply r) t at judged
      generalize r.judge s.limits turn .noReply r = j at *
      have changedFlag := judged.flag .changed (by decide)
      have lostFlag := judged.flag .lost (by decide)
      refine ⟨t, run, ?_⟩
      by_cases passes : r.passesCadence turn.handle turn.superframe
      · rw [Record.missEffects_missing missing (chargedMiss_iff.mpr ⟨own, .inr missing, passes⟩)] at record lost changed
        rcases le_or_gt s.limits.huntLength (r.huntMisses + 1) with reached | below
        · by_cases round : r.huntCandidate.next = r.offset
          · rw [Record.missInHunt_ends reached round] at record lost changed
            rw [judged.record, judged.isChanged, changedFlag, lostFlag, record, lost, changed]
            refine ⟨fun _ => ⟨fun below => absurd reached (not_le.mpr below), fun _ further => absurd round further,
              fun _ _ => ⟨rfl, rfl, rfl, ?_, ?_⟩⟩, rfl, rfl, rfl, rfl⟩
            · simp
            · simp
          · rw [Record.missInHunt_moves reached round] at record lost changed
            rw [judged.record, record]
            exact ⟨fun _ => ⟨fun below => absurd reached (not_le.mpr below), fun _ _ => ⟨missing, rfl, rfl⟩,
              fun _ ended => absurd ended round⟩, rfl, rfl, rfl, rfl⟩
        · rw [Record.missInHunt_below below] at record lost changed
          rw [judged.record, record]
          exact ⟨fun _ => ⟨fun _ => ⟨missing, rfl, rfl⟩, fun reached => absurd reached (not_le.mpr below),
            fun reached => absurd reached (not_le.mpr below)⟩, rfl, rfl, rfl, rfl⟩
      · rw [Record.missEffects_uncharged (mt chargedMiss_iff.mp fun all => passes all.2.2)] at record
        rw [judged.record, record]
        exact ⟨fun cadence => absurd cadence passes, rfl, rfl, rfl, rfl⟩

end Sys2Proof.Machine
end


section
/-! PROOFS. GOOD replies, their report, and the completion of a release (R25, R26, R95, R151 to R154): O45, O48, O49. -/

namespace Sys2Proof.Machine

/-! ## The report of a GOOD reply (R25, R26) -/

/-- The press accumulator after a report (R26). -/
def Record.pressesAfter (r : Record) (total : BitVec 4) : Nat :=
  match r.pressBaseline with
  | none => r.presses
  | some baseline => min (r.presses + (total - baseline).toNat) 255

/-- The record after a report (R25, R26). -/
def Record.reported (r : Record) (limits : QualityLimits) (heard : Heard) (ack : Ack) : Record :=
  { r with
    lastHeard := some heard
    supply := some ack.supply
    lowSupply := decide (ack.supply.toNat ≤ limits.supplyThreshold)
    pressBaseline := some ack.presses
    presses := r.pressesAfter ack.presses }

theorem takePressTotal_takeSupply (r : Record) (limits : QualityLimits) (heard : Heard) (ack : Ack) :
    (r.takeSupply limits heard ack.supply).takePressTotal ack.presses = r.reported limits heard ack := by
  unfold Record.takePressTotal Record.reported Record.pressesAfter
  have baseline : (r.takeSupply limits heard ack.supply).pressBaseline = r.pressBaseline := rfl
  rw [baseline]
  cases r.pressBaseline <;> rfl

/-- A report that changed a matter of R22: low supply, or a rise of the press accumulator. -/
def Record.reportNews (r : Record) (limits : QualityLimits) (ack : Ack) : Bool :=
  (r.lowSupply != decide (ack.supply.toNat ≤ limits.supplyThreshold)) || decide (r.presses < r.pressesAfter ack.presses)

section
variable (s : State) (h : Handle) (heard : Heard) (ack : Ack)

theorem report_eq : s.report h heard ack =
    (s.setRecord h ((s.record h).reported s.limits heard ack)).markChangedIf ((s.record h).reportNews s.limits ack) h := by
  simp only [State.report, takePressTotal_takeSupply]
  rfl

@[simp] theorem record_report : (s.report h heard ack).record h = (s.record h).reported s.limits heard ack := by
  rw [report_eq, record_markChangedIf, record_setRecord_self]

theorem isChanged_report :
    (s.report h heard ack).isChanged h = ((s.record h).reportNews s.limits ack || s.isChanged h) := by
  rw [report_eq, isChanged_markChangedIf, decide_eq_true rfl, Bool.and_true]
  rfl

theorem flag_report (f : EventFlag) :
    (s.report h heard ack).flag f = (s.flag f || (s.record h).reportNews s.limits ack && decide (f = .changed)) := by
  rw [report_eq, flag_markChangedIf, flag_setRecord]

/-- A report changes the record, the changed set and the event flags. -/
theorem report_frame : s.report h heard ack =
    { s with
      records := (s.report h heard ack).records, changed := (s.report h heard ack).changed
      port := (s.report h heard ack).port } := by
  rw [report_eq]
  unfold State.markChangedIf
  split <;> rfl

end

/-! ## The claim of a GOOD reply (R66) -/

/-- The state after the report of a GOOD reply (R66, step 1). -/
def State.heardReply (s : State) (turn : LabelTurn) (ack : Ack) : State :=
  { s with context := none }.report turn.handle { superframe := turn.superframe, slot := turn.slot } ack

section
variable {s : State} {turn : LabelTurn} (corrected : Nat) (ack : Ack)

theorem record_heardReply : (s.heardReply turn ack).record turn.handle =
    (s.record turn.handle).reported s.limits { superframe := turn.superframe, slot := turn.slot } ack :=
  record_report _ _ _ ack

theorem isChanged_heardReply : (s.heardReply turn ack).isChanged turn.handle =
    ((s.record turn.handle).reportNews s.limits ack || s.isChanged turn.handle) :=
  isChanged_report _ _ _ ack

theorem flag_heardReply (f : EventFlag) : (s.heardReply turn ack).flag f =
    (s.flag f || (s.record turn.handle).reportNews s.limits ack && decide (f = .changed)) :=
  flag_report _ _ _ ack f

theorem heardReply_frame : s.heardReply turn ack =
    { s with
      records := (s.heardReply turn ack).records, changed := (s.heardReply turn ack).changed
      port := (s.heardReply turn ack).port, context := none } :=
  report_frame _ _ _ ack

theorem actsOn_heardReply : ActsOn turn.handle { s with context := none } (s.heardReply turn ack) := actsOn_report _ _ ack

variable (live : (s.record turn.handle).state ≠ .free ∧ (s.record turn.handle).generation = turn.generation)
include live

/-- A GOOD reply to a RELEASE of a RELEASING record completes the release (R151). -/
theorem claimed_released (carried : turn.work = .release) (releasing : (s.record turn.handle).state = .releasing) :
    s.claimed turn (.good corrected ack) = (s.heardReply turn ack).completeRelease turn.handle .acknowledged .free := by
  have isLive : State.claimLive { s with context := none } turn.handle turn.generation = true := claimLive_iff.mpr live
  have completes : (s.heardReply turn ack).releaseTurn turn = true := by
    have state : ((s.heardReply turn ack).record turn.handle).state = .releasing := by
      rw [record_heardReply]
      exact releasing
    rw [State.releaseTurn, state, carried]
    rfl
  have gone :
      (((s.heardReply turn ack).completeRelease turn.handle .acknowledged .free).record turn.handle).state = .free := by
    rw [State.completeRelease, record_markChanged, record_setFlag, vacate_record]
    rfl
  have effects : (s.heardReply turn ack).replyEffects turn (.good corrected ack) =
      (s.heardReply turn ack).completeRelease turn.handle .acknowledged .free := if_pos completes
  refine (if_pos isLive).trans ?_
  show (if (((s.heardReply turn ack).replyEffects turn (.good corrected ack)).record turn.handle).state = .free then _
    else _) = _
  rw [effects, if_pos gone]
  exact effects

/-- Any other GOOD reply has its effects, and is judged (R66). -/
theorem claimed_good (other : turn.work ≠ .release ∨ (s.record turn.handle).state ≠ .releasing)
    (stays : (((s.heardReply turn ack).goodEffects turn ack).record turn.handle).state ≠ .free) :
    s.claimed turn (.good corrected ack) = ((s.heardReply turn ack).goodEffects turn ack).judgeTurn turn
      (.good corrected ack) ((s.heardReply turn ack).record turn.handle) := by
  have isLive : State.claimLive { s with context := none } turn.handle turn.generation = true := claimLive_iff.mpr live
  have goesOn : (s.heardReply turn ack).releaseTurn turn ≠ true := by
    simp only [ne_eq, State.releaseTurn, Bool.and_eq_true, decide_eq_true_eq]
    rintro ⟨carried, releasing⟩
    rw [record_heardReply] at releasing
    obtain work | state := other
    · exact work carried
    · exact state releasing
  have effects : (s.heardReply turn ack).replyEffects turn (.good corrected ack) =
      (s.heardReply turn ack).goodEffects turn ack := if_neg goesOn
  refine (if_pos isLive).trans ?_
  show (if (((s.heardReply turn ack).replyEffects turn (.good corrected ack)).record turn.handle).state = .free then _
    else ((s.heardReply turn ack).replyEffects turn (.good corrected ack)).judgeTurn turn _ _) = _
  rw [effects, if_neg stays]
  rfl

end

/-! ## OFFERED and RELEASING records (R95, R154) -/

/-- A GOOD reply has no miss effect on a record that was OFFERED or RELEASING (R131). -/
theorem Record.missEffects_unlinked {r before : Record} {limits : QualityLimits} {turn : LabelTurn} (outcome : TurnOutcome)
    (unlinked : before.state = .offered ∨ before.state = .releasing) :
    r.missEffects limits turn outcome before = r.quiet := by
  obtain state | state := unlinked <;> simp only [Record.missEffects, state]

theorem judgeTurn_unlinked (s : State) {turn : LabelTurn} (outcome : TurnOutcome) {before : Record}
    (unlinked : before.state = .offered ∨ before.state = .releasing) : s.judgeTurn turn outcome before = s :=
  judgeTurn_quiet s turn outcome before (Record.judge_quiet (Record.missEffects_unlinked outcome unlinked)
    (countedTurn_idle (.inr unlinked) outcome))

theorem goodEffects_offered {s : State} {turn : LabelTurn} (ack : Ack) (offered : (s.record turn.handle).state = .offered)
    (own : turn.kind = .label) : s.goodEffects turn ack = s.bind turn.handle := by
  simp only [State.goodEffects, offered, own]

theorem goodEffects_releasing {s : State} {turn : LabelTurn} (ack : Ack)
    (releasing : (s.record turn.handle).state = .releasing) : s.goodEffects turn ack = s := by
  simp only [State.goodEffects, releasing]

/-- The record that a GOOD reply binds (R95). -/
def Record.bound (r : Record) : Record := { r with state := .bound, modeConfirmed := .showing, missCount := 0 }

theorem record_bind (s : State) (h : Handle) : (s.bind h).record h = (s.record h).bound := by
  rw [State.bind, record_markChanged]
  exact record_setRecord_self s h _

/-- Settles O45: the report and the binding; the monitor finds nothing. -/
theorem goodReplyBindsOffered : Obligations.GoodReplyBindsOffered := by
  intro s turn frame ack corrected out running label listening own good r offered same
  have live : r.state ≠ .free ∧ r.generation = turn.generation := ⟨by rw [offered]; nofun, same⟩
  obtain ⟨t, run, counted⟩ := exec_closes_running out running label listening (.good good)
  have heard := record_heardReply (s := s) (turn := turn) ack
  have offeredHeard : ((s.heardReply turn ack).record turn.handle).state = .offered := by
    rw [heard]
    exact offered
  have binds := goodEffects_offered ack offeredHeard own
  have stays : (((s.heardReply turn ack).goodEffects turn ack).record turn.handle).state ≠ .free := by
    rw [binds, record_bind]
    nofun
  rw [claimed_good corrected ack live (.inr (by rw [offered]; nofun)) stays, binds,
    judgeTurn_unlinked _ _ (.inl offeredHeard)] at counted
  have acts := (actsOn_heardReply (s := s) (turn := turn) ack).trans (actsOn_bind (h := turn.handle) _)
  have reported := heardReply_frame (s := s) (turn := turn) ack
  refine ⟨t, run, ?_, ?_, ?_, fun k other => ⟨?_, ?_⟩, ?_, ?_, ?_, ?_, ?_, ?_, ?_⟩
  · rw [counted.context, acts.context]
  · rw [counted.lateRef, acts.lateRef]
  · rw [counted.record, record_bind, heard]
    rfl
  · rw [counted.record, acts.others k other]
    rfl
  · rw [counted.isChanged, acts.marks k other]
    rfl
  · rw [counted.isChanged, State.bind, isChanged_markChanged]
    simp
  · rw [counted.flags _ (by decide), State.bind, flag_markChanged]
    simp
  · rw [counted.offerQueue]
    show (s.heardReply turn ack).offerQueue.filter _ = _
    rw [reported]
  · rw [counted.seats]
    show (s.heardReply turn ack).seats = _
    rw [reported]
  · rw [counted.cells]
    show (s.heardReply turn ack).cells = _
    rw [reported]
  · rw [counted.joinQueue, acts.joinQueue]
  · rw [counted.time, acts.time]

/-- Settles O49: a GOOD reply leaves its report, and NONE and DAMAGED find nothing. -/
theorem otherFrameOnReleasingRecord : Obligations.OtherFrameOnReleasingRecord := by
  intro s turn out running label listening other r releasing same kept
  have live : r.state ≠ .free ∧ r.generation = turn.generation := ⟨by rw [releasing]; nofun, same⟩
  refine ⟨fun frame ack corrected good => ?_, fun row rows => ?_⟩
  · obtain ⟨t, run, counted⟩ := exec_closes_running out running label listening (.good good)
    have heard := record_heardReply (s := s) (turn := turn) ack
    have releasingHeard : ((s.heardReply turn ack).record turn.handle).state = .releasing := by
      rw [heard]
      exact releasing
    have nothing := goodEffects_releasing (turn := turn) ack releasingHeard
    have stays : (((s.heardReply turn ack).goodEffects turn ack).record turn.handle).state ≠ .free := by
      rw [nothing, releasingHeard]
      nofun
    rw [claimed_good corrected ack live (.inl other) stays, nothing,
      judgeTurn_unlinked _ _ (.inr releasingHeard)] at counted
    have acts := actsOn_heardReply (s := s) (turn := turn) ack
    have reported := heardReply_frame (s := s) (turn := turn) ack
    refine ⟨t, run, ⟨?_, fun k distinct => ⟨?_, ?_⟩, ?_, ?_, ?_, ?_, ?_, ?_⟩, ?_⟩
    · rw [counted.context, acts.context]
    · rw [counted.record, acts.others k distinct]
      rfl
    · rw [counted.isChanged, acts.marks k distinct]
      rfl
    · rw [counted.seats, reported]
    · rw [counted.cells, reported]
    · rw [counted.offerQueue, reported]
    · rw [counted.joinQueue, reported]
    · rw [counted.flags _ (by decide), flag_heardReply]
      simp
    · rw [counted.flags _ (by decide), flag_heardReply]
      simp
    · rw [counted.record, heard]
      rfl
  · obtain ⟨outcome, closes, bad⟩ := closes_unanswered rows
    obtain ⟨t, run, counted⟩ := exec_closes_quiet out running label listening closes live bad (.inl other)
      (Record.missEffects_unlinked outcome (.inr releasing)) (countedTurn_idle (.inr (.inr releasing)) outcome)
    have before := atClose_frame s turn outcome
    refine ⟨t, run, ⟨?_, fun k distinct => ⟨?_, ?_⟩, ?_, ?_, ?_, ?_, ?_, ?_⟩, ?_, ?_⟩
    · rw [counted.context, before]
    · rw [counted.record, record_atClose]
    · rw [counted.isChanged, isChanged_atClose]
    · rw [counted.seats, before]
    · rw [counted.cells, before]
    · rw [counted.offerQueue, before]
    · rw [counted.joinQueue, before]
    · rw [counted.flags _ (by decide), flag_atClose]
    · rw [counted.flags _ (by decide), flag_atClose]
    · rw [counted.record, record_atClose]
    · rw [counted.changed, before]

/-! ## A release that completes (R12, R151, R152) -/

/-- NONE or DAMAGED on a RELEASE with four attempts sent completes the release UNANSWERED (R152). -/
theorem claimed_unansweredRelease {s : State} {turn : LabelTurn} {outcome : TurnOutcome}
    (live : (s.record turn.handle).state ≠ .free ∧ (s.record turn.handle).generation = turn.generation)
    (bad : outcome = .noReply ∨ outcome = .damaged) (carried : turn.work = .release)
    (releasing : (s.record turn.handle).state = .releasing) (spent : 4 ≤ (s.record turn.handle).attempts) :
    s.claimed turn outcome = (s.atClose turn outcome).completeRelease turn.handle .unanswered .cooled := by
  have isLive : (s.atClose turn outcome).claimLive turn.handle turn.generation = true := by
    rw [claimLive_atClose]
    exact claimLive_iff.mpr live
  have reported : (s.atClose turn outcome).closeReport turn outcome = s.atClose turn outcome := by
    obtain rfl | rfl := bad <;> rfl
  have completes : (s.atClose turn outcome).releaseUnanswered turn =
      (s.atClose turn outcome).completeRelease turn.handle .unanswered .cooled := by
    refine if_pos ⟨?_, ?_⟩
    · rw [State.releaseTurn, record_atClose, releasing, carried]
      rfl
    · rw [record_atClose]
      exact spent
  have effects : (s.atClose turn outcome).replyEffects turn outcome =
      (s.atClose turn outcome).completeRelease turn.handle .unanswered .cooled := by
    obtain rfl | rfl := bad <;> exact completes
  have gone : (((s.atClose turn outcome).completeRelease turn.handle .unanswered .cooled).record turn.handle).state =
      .free := by
    rw [State.completeRelease, record_markChanged, record_setFlag, vacate_record]
    rfl
  rw [State.claimed, State.applyClose, if_pos isLive]
  simp only [reported, effects, if_pos gone]

/-- What a completed release leaves (R12, R99, R151, R152). -/
structure ReleaseLeft (s : State) (h : Handle) (outcome : ReleaseOutcome) (left : Seat) (t : State) : Prop where
  record : t.record h =
    { Record.vacant with
      generation := (s.record h).generation, serial := (s.record h).serial, outcome := outcome }
  seats : ∀ n, t.seatState n =
    if (s.record h).seat = some n ∨ (s.record h).target = some n then left else s.seatState n
  cells : ∀ c : CellNo, t.cells[c.val] = if ∃ e ∈ (s.record h).fields, e.cell = c then none else s.cells[c.val]
  others : ∀ k, k ≠ h → t.record k = s.record k
  isChanged : t.isChanged h = true
  released : t.flag .released = true
  changed : t.flag .changed = true

theorem releaseLeft_completeRelease (s : State) (h : Handle) (outcome : ReleaseOutcome) (left : Seat) :
    ReleaseLeft s h outcome left (s.completeRelease h outcome left) where
  record := by
    rw [State.completeRelease, record_markChanged, record_setFlag, vacate_record]
    rfl
  seats := seatState_vacate s h outcome left
  cells := cells_vacate s h outcome left
  others := (actsOn_completeRelease s outcome left).others
  isChanged := by
    rw [State.completeRelease, isChanged_markChanged]
    simp
  released := by
    rw [State.completeRelease, flag_markChanged, flag_setFlag]
    simp
  changed := by
    rw [State.completeRelease, flag_markChanged]
    simp

/-- What a completion reads of the record is the same before and after its report, and up to the close. -/
theorem ReleaseLeft.congr {s w : State} {h : Handle} {outcome : ReleaseOutcome} {left : Seat} {t : State}
    (r : ReleaseLeft w h outcome left t)
    (record : w.record h = s.record h ∨ ∃ limits heard ack, w.record h = (s.record h).reported limits heard ack)
    (others : ∀ k, k ≠ h → w.record k = s.record k) (seats : w.seats = s.seats) (cells : w.cells = s.cells) :
    ReleaseLeft s h outcome left t := by
  have same : (w.record h).generation = (s.record h).generation ∧ (w.record h).serial = (s.record h).serial ∧
      (w.record h).seat = (s.record h).seat ∧ (w.record h).target = (s.record h).target ∧
      (w.record h).fields = (s.record h).fields := by
    obtain same | ⟨limits, heard, ack, same⟩ := record <;> rw [same] <;> exact ⟨rfl, rfl, rfl, rfl, rfl⟩
  obtain ⟨generation, serial, seat, target, fields⟩ := same
  refine ⟨?_, fun n => ?_, fun c => ?_, fun k other => (r.others k other).trans (others k other), r.isChanged, r.released,
    r.changed⟩
  · rw [r.record, generation, serial]
  · have seatSame : w.seatState n = s.seatState n := by rw [State.seatState, State.seatState, seats]
    rw [r.seats, seat, target, seatSame]
  · rw [r.cells, fields, cells]

/-- The census after it leaves a completed release. -/
theorem ReleaseLeft.counted {s u t : State} {h : Handle} {outcome : ReleaseOutcome} {left : Seat}
    (r : ReleaseLeft s h outcome left u) (c : Counted u t) : ReleaseLeft s h outcome left t where
  record := (c.record h).trans r.record
  seats n := (c.seatState n).trans (r.seats n)
  cells k := by
    rw [c.cells]
    exact r.cells k
  others k other := (c.record k).trans (r.others k other)
  isChanged := (c.isChanged h).trans r.isChanged
  released := (c.flags _ (by decide)).trans r.released
  changed := (c.flags _ (by decide)).trans r.changed

/-- Settles O48: a GOOD reply completes the release, and the fourth RELEASE that goes unanswered does. -/
theorem releaseCompletes : Obligations.ReleaseCompletes := by
  intro s turn out running label listening carried r releasing same completed
  have live : r.state ≠ .free ∧ r.generation = turn.generation := ⟨by rw [releasing]; nofun, same⟩
  have completes {t : State} {outcome : ReleaseOutcome} {left : Seat} (context : t.context = none)
      (l : ReleaseLeft s turn.handle outcome left t) : completed t outcome left :=
    ⟨context, l.record, l.seats, l.cells, l.others, l.isChanged, l.released, l.changed⟩
  refine ⟨fun frame ack corrected good => ?_, fun row rows => ?_⟩
  · obtain ⟨t, run, counted⟩ := exec_closes_running out running label listening (.good good)
    rw [claimed_released corrected ack live carried releasing] at counted
    have acts := actsOn_heardReply (s := s) (turn := turn) ack
    have reported := heardReply_frame (s := s) (turn := turn) ack
    have context := acts.trans (actsOn_completeRelease (h := turn.handle) _ .acknowledged .free) |>.context
    have leaves := releaseLeft_completeRelease (s.heardReply turn ack) turn.handle .acknowledged .free
    refine ⟨t, run, completes (counted.context.trans context) ((leaves.congr (s := s) ?_ ?_ ?_ ?_).counted counted)⟩
    · exact .inr ⟨_, _, _, record_heardReply ack⟩
    · exact fun k other => (acts.others k other).trans rfl
    · rw [reported]
    · rw [reported]
  · obtain ⟨outcome, closes, bad⟩ := closes_unanswered rows
    have before := atClose_frame s turn outcome
    refine ⟨fun spent => ?_, fun few => ?_⟩
    · obtain ⟨t, run, counted⟩ := exec_closes_running out running label listening closes
      rw [claimed_unansweredRelease live bad carried releasing spent] at counted
      have acts := actsOn_completeRelease (h := turn.handle) (s.atClose turn outcome) .unanswered .cooled
      have leaves := releaseLeft_completeRelease (s.atClose turn outcome) turn.handle .unanswered .cooled
      refine ⟨t, run, completes ?_ ((leaves.congr (s := s) ?_ ?_ ?_ ?_).counted counted)⟩
      · rw [counted.context, acts.context, before]
      · exact .inl (record_atClose s turn outcome turn.handle)
      · exact fun k _ => record_atClose s turn outcome k
      · rw [before]
      · rw [before]
    · obtain ⟨t, run, counted⟩ := exec_closes_quiet out running label listening closes live bad (.inr (.inr few))
        (Record.missEffects_unlinked outcome (.inr releasing)) (countedTurn_idle (.inr (.inr releasing)) outcome)
      refine ⟨t, run, ?_, ?_, ?_, ?_, ?_, ?_⟩
      · rw [counted.context, before]
      · rw [counted.records, before]
      · rw [counted.seats, before]
      · rw [counted.cells, before]
      · rw [counted.changed, before]
      · rw [counted.flags _ (by decide), flag_atClose]

end Sys2Proof.Machine
end


section
/-! PROOFS. What a GOOD reply confirms (R114, R115, R119, R124, R126, R138 to R141): O46; and the quality window: O51. -/

namespace Sys2Proof.Machine

/-! ## What a confirmation leaves -/

/-- A BOUND, MISSING or LOST record. -/
def Record.linked (r : Record) : Prop := r.state = .bound ∨ r.state = .missing ∨ r.state = .lost

/-- What the confirmation of a turn leaves on a record: the parts that a directive names can change, and the handle is
inserted exactly if there is news (R22, R126). -/
structure Confirms (h : Handle) (news : Bool) (s t : State) : Prop where
  acts : ActsOn h s t
  record : t.record h =
    { s.record h with
      period := (t.record h).period, pendingPeriod := (t.record h).pendingPeriod
      modeConfirmed := (t.record h).modeConfirmed, modeHold := (t.record h).modeHold
      seat := (t.record h).seat, target := (t.record h).target, fields := (t.record h).fields }
  offerQueue : t.offerQueue = s.offerQueue
  isChanged : t.isChanged h = (news || s.isChanged h)
  changedFlag : t.flag .changed = (news || s.flag .changed)

section
variable {s : State} {h : Handle}

theorem confirms_none : Confirms h false s s := ⟨.rfl s, rfl, rfl, rfl, rfl⟩

/-- Marking the handle is news (R22). -/
theorem Confirms.mark {t : State} (c : Confirms h false s t) : Confirms h true s (t.markChanged h) where
  acts := c.acts.trans (actsOn_markChanged t)
  record := c.record
  offerQueue := c.offerQueue
  isChanged := by
    rw [isChanged_markChanged]
    simp
  changedFlag := by
    rw [flag_markChanged]
    simp

theorem confirms_modifyRecord (f : Record → Record)
    (parts : f (s.record h) = { s.record h with
      period := (f (s.record h)).period, pendingPeriod := (f (s.record h)).pendingPeriod
      modeConfirmed := (f (s.record h)).modeConfirmed, modeHold := (f (s.record h)).modeHold
      seat := (f (s.record h)).seat, target := (f (s.record h)).target, fields := (f (s.record h)).fields }) :
    Confirms h false s (s.modifyRecord h f) where
  acts := actsOn_modifyRecord s f
  record := by
    have own : (s.modifyRecord h f).record h = f (s.record h) := record_setRecord_self s h _
    rw [own]
    exact parts
  offerQueue := rfl
  isChanged := rfl
  changedFlag := rfl

theorem confirms_retime (e : Exponent) : Confirms h true s (s.confirmRetime h e) := (confirms_modifyRecord _ rfl).mark

theorem confirms_mode (m : Mode) : Confirms h true s (s.confirmMode h m) := (confirms_modifyRecord _ rfl).mark

/-- Without a move target there is no move to confirm (R115). -/
theorem confirmMove_none (still : (s.record h).target = none) : s.confirmMove h = s := by
  simp only [State.confirmMove, still]

/-- A confirmed move (R114, R115). -/
theorem confirmMove_some {n : SeatNo} (target : (s.record h).target = some n) :
    s.confirmMove h = ((s.setSeat? (s.record h).seat .free).modifyRecord h fun r =>
      { r with seat := some n, target := none }).markChanged h := by
  simp only [State.confirmMove, target]

theorem confirms_move {n : SeatNo} (target : (s.record h).target = some n) : Confirms h true s (s.confirmMove h) := by
  rw [confirmMove_some target]
  have left : Confirms h false s (s.setSeat? (s.record h).seat .free) := by
    rw [setSeat?_frame]
    exact ⟨⟨fun _ _ => rfl, fun _ _ => rfl, rfl, rfl⟩, rfl, rfl, rfl, rfl⟩
  refine Confirms.mark ⟨left.acts.trans (actsOn_modifyRecord _ _), ?_, left.offerQueue, left.isChanged, left.changedFlag⟩
  simp only [State.modifyRecord, record_setRecord_self, record_setSeat?]

theorem record_confirmMove {n : SeatNo} (target : (s.record h).target = some n) :
    (s.confirmMove h).record h = { s.record h with seat := some n, target := none } := by
  rw [confirmMove_some target, record_markChanged, State.modifyRecord, record_setRecord_self, record_setSeat?]

/-- The items of an UPDATE act on the field list, the cells and REFUSED (R83 to R86). -/
theorem acknowledgeFrom_parts (refusals : BitVec 6) (items : List Item) : ∀ (i : Nat) (s : State),
    s.acknowledgeFrom h refusals i items = { s with
      records := (s.acknowledgeFrom h refusals i items).records, cells := (s.acknowledgeFrom h refusals i items).cells
      port := (s.acknowledgeFrom h refusals i items).port } ∧
    (s.acknowledgeFrom h refusals i items).record h =
      { s.record h with fields := ((s.acknowledgeFrom h refusals i items).record h).fields } := by
  induction items with
  | nil => exact fun _ _ => ⟨rfl, rfl⟩
  | cons item items ih =>
    intro i s
    obtain ⟨frame, record⟩ := ih (i + 1) (s.acknowledgeItem h item (refusals.getLsbD i))
    have first : s.acknowledgeItem h item (refusals.getLsbD i) = { s with
          records := (s.acknowledgeItem h item (refusals.getLsbD i)).records
          cells := (s.acknowledgeItem h item (refusals.getLsbD i)).cells
          port := (s.acknowledgeItem h item (refusals.getLsbD i)).port } ∧
        (s.acknowledgeItem h item (refusals.getLsbD i)).record h =
          { s.record h with fields := ((s.acknowledgeItem h item (refusals.getLsbD i)).record h).fields } := by
      obtain ⟨t, changes, same | same⟩ := changesFields_acknowledgeItem s h item (refusals.getLsbD i)
      · rw [same]
        exact ⟨by rw [changes.frame], changes.record⟩
      · rw [same]
        exact ⟨by rw [changes.frame]; rfl, changes.record⟩
    obtain ⟨frameItem, recordItem⟩ := first
    rw [State.acknowledgeFrom]
    generalize s.acknowledgeItem h item (refusals.getLsbD i) = u at *
    generalize u.acknowledgeFrom h refusals (i + 1) items = t at *
    refine ⟨?_, ?_⟩
    · rw [frame, frameItem]
    · rw [record, recordItem]

theorem confirms_update (items : List Item) (refusals : BitVec 6) :
    Confirms h (!items.isEmpty) s (s.acknowledgeUpdate h items refusals) := by
  obtain ⟨frame, record⟩ := acknowledgeFrom_parts (h := h) refusals items 0 s
  have unmarked : Confirms h false s (s.acknowledgeFrom h refusals 0 items) := by
    refine ⟨actsOn_acknowledgeFrom refusals items 0 s, ?_, ?_, ?_, setsOnly_acknowledgeFrom refusals items 0 _ (by decide)⟩
    · rw [record]
    · rw [frame]
    · rw [frame]
      rfl
  rw [State.acknowledgeUpdate]
  cases items.isEmpty
  · exact unmarked.mark
  · exact unmarked

/-! ## The confirmation by the work of the turn (R126) -/

theorem goodEffects_label {turn : LabelTurn} (ack : Ack) (linked : (s.record turn.handle).linked)
    (own : turn.kind = .label) : s.goodEffects turn ack = s.confirmWork turn.handle turn.work ack := by
  obtain state | state | state := linked <;> simp only [State.goodEffects, state, own]

theorem goodEffects_probe {turn : LabelTurn} (ack : Ack) (linked : (s.record turn.handle).linked)
    (probe : turn.kind = .probe) : s.goodEffects turn ack = s.confirmMove turn.handle := by
  obtain state | state | state := linked <;> simp only [State.goodEffects, state, probe]

theorem confirms_moveIf : ∃ news, Confirms h news s (s.confirmMove h) := by
  cases target : (s.record h).target with
  | none => exact ⟨false, (confirmMove_none target).symm ▸ confirms_none⟩
  | some n => exact ⟨true, confirms_move target⟩

theorem confirms_work (work : Work) (ack : Ack) : ∃ news, Confirms h news s (s.confirmWork h work ack) := by
  cases work with
  | poll | release => exact ⟨false, confirms_none⟩
  | update items => exact ⟨_, confirms_update items ack.refusals⟩
  | mode m => exact ⟨true, confirms_mode m⟩
  | retime e => exact ⟨true, confirms_retime e⟩
  | move n =>
    simp only [State.confirmWork]
    split
    · exact confirms_moveIf
    · exact ⟨false, confirms_none⟩

theorem confirms_goodEffects {turn : LabelTurn} (ack : Ack) (linked : (s.record turn.handle).linked) :
    ∃ news, Confirms turn.handle news s (s.goodEffects turn ack) := by
  cases kind : turn.kind with
  | probe => exact (goodEffects_probe ack linked kind).symm ▸ confirms_moveIf
  | label => exact (goodEffects_label ack linked kind).symm ▸ confirms_work turn.work ack

end

/-! ## The quality window (R132 to R134) -/

/-- What a counted turn leaves of the level and the quality window: `bad` is 1 for a bad turn, else 0 (R132 to R134). -/
def WindowCounts (limits : QualityLimits) (r : Record) (bad : Nat) (v : Record) : Prop :=
  (r.windowTurns + 1 < limits.windowLength →
    v.windowTurns = r.windowTurns + 1 ∧ v.windowBad = r.windowBad + bad ∧ v.level = r.level ∧
      v.cleanWindows = r.cleanWindows) ∧
  (limits.windowLength ≤ r.windowTurns + 1 →
    v.windowTurns = 0 ∧ v.windowBad = 0 ∧
    (r.policy = .manual → v.level = r.level ∧ v.cleanWindows = 0) ∧
    (r.policy = .automatic →
      (limits.raiseThreshold ≤ r.windowBad + bad → v.level.val = min (r.level.val + 1) 3 ∧ v.cleanWindows = 0) ∧
      (r.windowBad + bad < limits.raiseThreshold → r.windowBad + bad ≠ 0 → v.level = r.level ∧ v.cleanWindows = 0) ∧
      (r.windowBad + bad < limits.raiseThreshold → r.windowBad + bad = 0 →
        (r.cleanWindows + 1 < limits.cleanToLower → v.level = r.level ∧ v.cleanWindows = r.cleanWindows + 1) ∧
        (limits.cleanToLower ≤ r.cleanWindows + 1 →
          v.cleanWindows = 0 ∧ (r.floor < r.level → v.level.val + 1 = r.level.val) ∧
          (r.level ≤ r.floor → v.level = r.level)))))

theorem Level.val_raise (l : Level) : (Level.raise l).val = min (l.val + 1) 3 := by
  unfold Level.raise
  split
  · exact (Nat.min_eq_left (by omega)).symm
  · omega

theorem Level.val_lower {l floor : Level} (above : floor < l) : (Level.lower l floor).val + 1 = l.val := by
  have above' : floor.val < l.val := above
  rw [Level.lower, if_pos above]
  exact Nat.sub_add_cancel (by omega)

theorem Level.lower_floor {l floor : Level} (atFloor : l ≤ floor) : Level.lower l floor = l :=
  if_neg (not_lt.mpr atFloor)

section
variable {r : Record} {limits : QualityLimits}

/-- The verdict at the end of a window under MANUAL (R134). -/
theorem Record.windowVerdict_manual (manual : r.policy = .manual) :
    r.windowVerdict limits = { r with cleanWindows := 0 } := by
  simp only [Record.windowVerdict, manual]

section
variable (automatic : r.policy = .automatic)
include automatic

theorem Record.windowVerdict_raise (many : limits.raiseThreshold ≤ r.windowBad) :
    r.windowVerdict limits = { r with level := Level.raise r.level, cleanWindows := 0 } := by
  simp only [Record.windowVerdict, automatic, if_pos many]

variable (few : r.windowBad < limits.raiseThreshold)
include few

theorem Record.windowVerdict_mixed (some : r.windowBad ≠ 0) :
    r.windowVerdict limits = { r with cleanWindows := 0 } := by
  simp only [Record.windowVerdict, automatic, if_neg (not_le.mpr few), if_neg some]

variable (clean : r.windowBad = 0)
include clean

theorem Record.windowVerdict_clean (short : r.cleanWindows + 1 < limits.cleanToLower) :
    r.windowVerdict limits = { r with cleanWindows := r.cleanWindows + 1 } := by
  simp only [Record.windowVerdict, automatic, if_neg (not_le.mpr few), if_pos clean, if_neg (not_le.mpr short)]

theorem Record.windowVerdict_lower (enough : limits.cleanToLower ≤ r.cleanWindows + 1) :
    r.windowVerdict limits = { r with level := Level.lower r.level r.floor, cleanWindows := 0 } := by
  simp only [Record.windowVerdict, automatic, if_neg (not_le.mpr few), if_pos clean, if_pos enough]

end

theorem windowCounts_addToWindow (bad : Bool) : WindowCounts limits r bad.toNat (r.addToWindow limits bad).record := by
  refine ⟨fun room => ?_, fun full => ?_⟩
  · rw [Record.addToWindow_open bad room]
    exact ⟨rfl, rfl, rfl, rfl⟩
  · rw [Record.addToWindow_ended bad full]
    refine ⟨rfl, rfl, fun manual => ?_, fun automatic => ⟨fun many => ?_, fun few some => ?_, fun few clean => ?_⟩⟩
    · rw [Record.windowVerdict_manual (r := r.counted bad) manual]
      exact ⟨rfl, rfl⟩
    · rw [Record.windowVerdict_raise (r := r.counted bad) automatic many]
      exact ⟨Level.val_raise r.level, rfl⟩
    · rw [Record.windowVerdict_mixed (r := r.counted bad) automatic few some]
      exact ⟨rfl, rfl⟩
    · refine ⟨fun short => ?_, fun enough => ?_⟩
      · rw [Record.windowVerdict_clean (r := r.counted bad) automatic few clean short]
        exact ⟨rfl, rfl⟩
      · rw [Record.windowVerdict_lower (r := r.counted bad) automatic few clean enough]
        exact ⟨rfl, Level.val_lower, Level.lower_floor⟩

/-- The window reads of a record its level and its window alone. -/
theorem WindowCounts.congr {q : Record} {bad : Nat} {v : Record} (w : WindowCounts limits q bad v)
    (same : SameWindow r q) :
    WindowCounts limits r bad v := by
  rw [WindowCounts, same.windowTurns, same.windowBad, same.level, same.cleanWindows, same.policy, same.floor] at w
  exact w

/-- A turn that counts adds to the window (R131, part 3). -/
theorem windowCounts_judge {turn : LabelTurn} {outcome : TurnOutcome} {before : Record}
    (counts : countedTurn turn outcome before = true) :
    WindowCounts limits r (badTurn limits outcome).toNat (r.judge limits turn outcome before).record := by
  rw [Record.judge_counted counts]
  exact (windowCounts_addToWindow (badTurn limits outcome)).congr (r.missEffects_window limits turn outcome before)

end

/-! ## The close of a turn that counts -/

/-- The state after steps 1 and 2 of a close that vacates nothing (R66). -/
def State.effected (s : State) (turn : LabelTurn) (outcome : TurnOutcome) : State :=
  match outcome with
  | .good _ ack => (s.heardReply turn ack).goodEffects turn ack
  | .damaged | .noReply => s.atClose turn outcome

/-- The record after step 1 of a close (R66). -/
def State.heardRecord (s : State) (turn : LabelTurn) (outcome : TurnOutcome) : Record :=
  match outcome with
  | .good _ ack =>
    (s.record turn.handle).reported s.limits { superframe := turn.superframe, slot := turn.slot } ack
  | .damaged | .noReply => s.record turn.handle

section
variable {s : State} {turn : LabelTurn}

theorem linked_heardReply (ack : Ack) (linked : (s.record turn.handle).linked) :
    ((s.heardReply turn ack).record turn.handle).linked := by
  rw [record_heardReply]
  exact linked

/-- The effects of a GOOD reply on a BOUND, MISSING or LOST record keep its state and its quality window. -/
theorem record_goodEffects (ack : Ack) (linked : (s.record turn.handle).linked) :
    (((s.heardReply turn ack).goodEffects turn ack).record turn.handle).state = (s.record turn.handle).state ∧
      SameWindow (s.record turn.handle) (((s.heardReply turn ack).goodEffects turn ack).record turn.handle) := by
  obtain ⟨news, confirms⟩ := confirms_goodEffects ack (linked_heardReply ack linked)
  have heard := record_heardReply (s := s) (turn := turn) ack
  rw [confirms.record, heard]
  exact ⟨rfl, {}⟩

variable (linked : (s.record turn.handle).linked) (same : (s.record turn.handle).generation = turn.generation)
include linked

theorem linked_ne_free : (s.record turn.handle).state ≠ .free := by
  obtain state | state | state := linked <;> rw [state] <;> nofun

theorem linked_ne_releasing : (s.record turn.handle).state ≠ .releasing := by
  obtain state | state | state := linked <;> rw [state] <;> nofun

include same

/-- The claim of a close on a BOUND, MISSING or LOST record: the effects, then the judgement (R66). -/
theorem claimed_linked (outcome : TurnOutcome) : s.claimed turn outcome =
    (s.effected turn outcome).judgeTurn turn outcome (s.heardRecord turn outcome) := by
  have live := And.intro (linked_ne_free linked) same
  have staying := linked_ne_releasing linked
  cases outcome with
  | noReply => exact claimed_unanswered live (.inl rfl) (.inr (.inl staying))
  | damaged => exact claimed_unanswered live (.inr rfl) (.inr (.inl staying))
  | good corrected ack =>
    have stays : (((s.heardReply turn ack).goodEffects turn ack).record turn.handle).state ≠ .free := by
      rw [(record_goodEffects ack linked).1]
      exact live.1
    rw [claimed_good corrected ack live (.inr staying) stays, record_heardReply]
    rfl

omit same

theorem sameWindow_effected (outcome : TurnOutcome) :
    SameWindow (s.record turn.handle) ((s.effected turn outcome).record turn.handle) := by
  cases outcome with
  | good corrected ack => exact (record_goodEffects ack linked).2
  | damaged | noReply => exact {}

omit linked in
theorem actsOn_effected (outcome : TurnOutcome) :
    ActsOn turn.handle (s.atClose turn outcome) (s.effected turn outcome) := by
  cases outcome with
  | good corrected ack => exact (actsOn_heardReply ack).trans (actsOn_goodEffects _ turn ack)
  | damaged | noReply => exact .rfl _

end

/-- Settles O51: the turn counts, and the window of the record before the close decides. -/
theorem qualityWindowEnds : Obligations.QualityWindowEnds := by
  intro s turn row bad out running label listening own r live damaged total same kind
  have closes : ∃ outcome, Closes turn row outcome ∧ r.linked ∧ (badTurn s.limits outcome).toNat = bad ∧
      (outcome = .noReply → chargedMiss turn r = true) ∧ (damaged → outcome = .damaged) := by
    have linked (state : live ∨ r.state = .lost) : r.linked := by
      obtain (bound | missing) | lost := state
      exacts [.inl bound, .inr (.inl missing), .inr (.inr lost)]
    obtain ⟨state, ⟨frame, rfl, bad⟩, rfl⟩ | ⟨state, passes, rfl, rfl⟩ |
      ⟨state, frame, ack, corrected, rfl, good, rfl⟩ := kind
    · exact ⟨_, .damaged bad, linked state, rfl, nofun, fun _ => rfl⟩
    · exact ⟨_, .noReply, linked (.inl state), rfl, fun _ => chargedMiss_iff.mpr ⟨own, state, passes⟩, nofun⟩
    · refine ⟨_, .good good, linked state, ?_, nofun, ?_⟩
      · simp only [badTurn]
        split <;> simp [*]
      · rintro ⟨other, sameRow, bad⟩
        cases sameRow
        exact absurd (good.symm.trans bad) nofun
  obtain ⟨outcome, closes, linked, rfl, charged, isDamaged⟩ := closes
  obtain ⟨t, run, counted⟩ := exec_closes_running out running label listening closes
  rw [claimed_linked linked same] at counted
  have acts := actsOn_effected (s := s) (turn := turn) outcome
  have judges := actsOn_judgeTurn (s.effected turn outcome) turn outcome (s.heardRecord turn outcome)
  have before := atClose_frame s turn outcome
  have limits : (s.effected turn outcome).limits = s.limits := by rw [acts.limits, before]
  have counts : countedTurn turn outcome (s.heardRecord turn outcome) = true := by
    refine countedTurn_iff.mpr ⟨own, ?_, ?_⟩
    · cases outcome <;> exact linked
    · rintro rfl
      exact charged rfl
  have record := record_judgeTurn (s.effected turn outcome) turn outcome (s.heardRecord turn outcome)
  have isChanged := isChanged_judgeTurn (s.effected turn outcome) turn outcome (s.heardRecord turn outcome)
  have flag := flag_judgeTurn (s.effected turn outcome) turn outcome (s.heardRecord turn outcome) .changed
  have window := sameWindow_effected linked outcome
  rw [limits] at record isChanged flag
  have windows := (windowCounts_judge (limits := s.limits) counts).congr window
  obtain ⟨judged, _, changed⟩ :=
    ((s.effected turn outcome).record turn.handle).judge_frame s.limits turn outcome (s.heardRecord turn outcome)
  have missed := ((s.effected turn outcome).record turn.handle).missEffects_window s.limits turn outcome
    (s.heardRecord turn outcome)
  have level : (((s.effected turn outcome).record turn.handle).missEffects s.limits turn outcome
      (s.heardRecord turn outcome)).record.level = r.level :=
    missed.level.trans window.level
  refine ⟨t, _, run, (counted.record _).trans record, windows.1, windows.2, fun moved => ⟨?_, ?_⟩, ?_, ?_, fun bad => ?_,
    fun k other => ?_⟩
  · rw [counted.isChanged, isChanged, changed, level, decide_eq_true moved, Bool.or_true, Bool.true_or]
  · rw [counted.flags _ (by decide), flag, changed, level, decide_eq_true moved]
    simp
  · rw [judged]
    exact missed.policy.trans window.policy
  · rw [judged]
    exact missed.floor.trans window.floor
  · obtain rfl := isDamaged bad
    refine ⟨?_, fun bound => ?_⟩
    · rw [counted.lateRef, judges.lateRef, acts.lateRef]
      rfl
    · have nothing : r.missEffects s.limits turn .damaged r = r.quiet := by
        simp only [Record.missEffects, bound]
      have judged := (r.judge_frame s.limits turn .damaged r).1
      have changed := (r.judge_frame s.limits turn .damaged r).2.2
      rw [nothing] at judged changed
      refine ⟨judged, fun level => ?_⟩
      have still : (r.judge s.limits turn .damaged r).changed = false := by
        rw [changed]
        exact decide_eq_false (not_not.mpr level)
      rw [counted.changed]
      exact changed_judgeTurn (s.atClose turn .damaged) turn .damaged r still
  · rw [counted.record, judges.others k other, acts.others k other, record_atClose]

end Sys2Proof.Machine
end


section
/-! PROOFS. What a GOOD reply confirms, part by part (R22, R25, R26, R114, R115, R119, R124, R126, R138 to R141): O46. -/

namespace Sys2Proof.Machine

/-! ## The confirmation, case by case (R114, R115, R119, R124, R126) -/

theorem record_confirmRetime (s : State) (h : Handle) (e : Exponent) : (s.confirmRetime h e).record h =
    { s.record h with
      period := e
      pendingPeriod := if (s.record h).pendingPeriod = some e then none else (s.record h).pendingPeriod } := by
  rw [State.confirmRetime, record_markChanged]
  exact record_setRecord_self s h _

theorem record_confirmMode (s : State) (h : Handle) (m : Mode) : (s.confirmMode h m).record h =
    { s.record h with
      modeConfirmed := m
      modeHold :=
        if decide ((s.record h).modeConfirmed = .dormant) != decide (m = .dormant) then 2
        else (s.record h).modeHold } := by
  rw [State.confirmMode, record_markChanged]
  exact record_setRecord_self s h _

/-- The hold is set by a change into or out of DORMANT (R124). -/
theorem modeHold_eq (r : Record) (m : Mode) :
    (if decide (r.modeConfirmed = .dormant) != decide (m = .dormant) then 2 else r.modeHold) =
      if (r.modeConfirmed = .dormant ∧ m ≠ .dormant) ∨ (r.modeConfirmed ≠ .dormant ∧ m = .dormant) then 2
      else r.modeHold := by
  by_cases before : r.modeConfirmed = .dormant <;> by_cases after : m = .dormant <;> simp [before, after]

/-- What the effects of a GOOD reply on a BOUND, MISSING or LOST record can be. -/
inductive Confirmation (s : State) (turn : LabelTurn) (ack : Ack) : State → Prop where
  | nothing : Confirmation s turn ack s
  | moved {n : SeatNo} : (s.record turn.handle).target = some n → (turn.kind = .label → turn.work = .move n) →
      Confirmation s turn ack (s.confirmMove turn.handle)
  | retimed {e : Exponent} : turn.kind = .label → turn.work = .retime e →
      Confirmation s turn ack (s.confirmRetime turn.handle e)
  | mode {m : Mode} : turn.kind = .label → turn.work = .mode m → Confirmation s turn ack (s.confirmMode turn.handle m)
  | updated {items : List Item} : turn.kind = .label → turn.work = .update items →
      Confirmation s turn ack (s.acknowledgeUpdate turn.handle items ack.refusals)

section
variable {s : State} {turn : LabelTurn} {ack : Ack}

theorem confirmation_goodEffects (linked : (s.record turn.handle).linked) :
    Confirmation s turn ack (s.goodEffects turn ack) := by
  cases kind : turn.kind with
  | probe =>
    rw [goodEffects_probe ack linked kind]
    cases target : (s.record turn.handle).target with
    | none => exact (confirmMove_none target).symm ▸ .nothing
    | some n => exact .moved target fun label => absurd (kind.symm.trans label) nofun
  | label =>
    rw [goodEffects_label ack linked kind]
    cases work : turn.work with
    | poll | release => exact .nothing
    | update items => exact .updated kind work
    | mode m => exact .mode kind work
    | retime e => exact .retimed kind work
    | move n =>
      simp only [State.confirmWork]
      split
      case isTrue target => exact .moved target fun _ => work
      case isFalse => exact .nothing

variable {t : State} (c : Confirmation s turn ack t)
include c

/-- Only an UPDATE changes the field list, the cells and REFUSED (R126). -/
theorem Confirmation.fields (other : (∀ items, turn.work ≠ .update items) ∨ turn.kind = .probe) :
    (t.record turn.handle).fields = (s.record turn.handle).fields ∧ t.cells = s.cells ∧ SetsOnly [.changed] s t := by
  cases c with
  | nothing => exact ⟨rfl, rfl, .rfl⟩
  | moved target _ =>
    refine ⟨by rw [record_confirmMove target], ?_, setsOnly_confirmMove⟩
    rw [confirmMove_some target]
    exact setSeat?_cells s _ _
  | retimed =>
    refine ⟨?_, rfl, SetsOnly.trans (.of_port rfl) setsOnly_markChanged⟩
    rw [record_confirmRetime]
  | mode =>
    refine ⟨?_, rfl, SetsOnly.trans (.of_port rfl) setsOnly_markChanged⟩
    rw [record_confirmMode]
  | updated label work =>
    obtain none | probe := other
    · exact absurd work (none _)
    · exact absurd (probe.symm.trans label) nofun

/-- Only a RETIME changes the period (R119, R126). -/
theorem Confirmation.period (other : (∀ e, turn.work ≠ .retime e) ∨ turn.kind = .probe) :
    (t.record turn.handle).period = (s.record turn.handle).period ∧
      (t.record turn.handle).pendingPeriod = (s.record turn.handle).pendingPeriod := by
  cases c with
  | nothing => exact ⟨rfl, rfl⟩
  | moved target _ =>
    rw [record_confirmMove target]
    exact ⟨rfl, rfl⟩
  | retimed label work =>
    obtain none | probe := other
    · exact absurd work (none _)
    · exact absurd (probe.symm.trans label) nofun
  | mode =>
    rw [record_confirmMode]
    exact ⟨rfl, rfl⟩
  | @updated items =>
    obtain ⟨_, record⟩ := acknowledgeFrom_parts (h := turn.handle) ack.refusals items 0 s
    rw [State.acknowledgeUpdate, record_markChangedIf, record]
    exact ⟨rfl, rfl⟩

/-- Only a MODE changes the mode confirmed and its hold (R124, R126). -/
theorem Confirmation.modes (other : (∀ m, turn.work ≠ .mode m) ∨ turn.kind = .probe) :
    (t.record turn.handle).modeConfirmed = (s.record turn.handle).modeConfirmed ∧
      (t.record turn.handle).modeHold = (s.record turn.handle).modeHold := by
  cases c with
  | nothing => exact ⟨rfl, rfl⟩
  | moved target _ =>
    rw [record_confirmMove target]
    exact ⟨rfl, rfl⟩
  | retimed =>
    rw [record_confirmRetime]
    exact ⟨rfl, rfl⟩
  | mode label work =>
    obtain none | probe := other
    · exact absurd work (none _)
    · exact absurd (probe.symm.trans label) nofun
  | @updated items =>
    obtain ⟨_, record⟩ := acknowledgeFrom_parts (h := turn.handle) ack.refusals items 0 s
    rw [State.acknowledgeUpdate, record_markChangedIf, record]
    exact ⟨rfl, rfl⟩

/-- Only a move changes the seats (R114, R115, R126). -/
theorem Confirmation.seats
    (other : (turn.kind = .label ∧ ∀ n, turn.work ≠ .move n) ∨ (s.record turn.handle).target = none) :
    (t.record turn.handle).seat = (s.record turn.handle).seat ∧
      (t.record turn.handle).target = (s.record turn.handle).target ∧ t.seats = s.seats := by
  cases c with
  | nothing => exact ⟨rfl, rfl, rfl⟩
  | moved target carried =>
    obtain ⟨label, none⟩ | still := other
    · exact absurd (carried label) (none _)
    · exact absurd (target.symm.trans still) nofun
  | retimed =>
    rw [record_confirmRetime]
    exact ⟨rfl, rfl, rfl⟩
  | mode =>
    rw [record_confirmMode]
    exact ⟨rfl, rfl, rfl⟩
  | @updated items =>
    obtain ⟨frame, record⟩ := acknowledgeFrom_parts (h := turn.handle) ack.refusals items 0 s
    have seats : ∀ u b, (State.markChangedIf u b turn.handle).seats = u.seats := fun u b => by cases b <;> rfl
    rw [State.acknowledgeUpdate, record_markChangedIf, record, seats, frame]
    exact ⟨rfl, rfl, rfl⟩

end

/-! ## The judgement of a GOOD reply (R131, R138, R140, R141) -/

/-- A GOOD reply finds a BOUND, MISSING or LOST record: BOUND, with miss count 0, in MISSING at the offset of the turn. -/
theorem Record.missEffects_good {r before : Record} (limits : QualityLimits) (turn : LabelTurn) (corrected : Nat)
    (ack : Ack) (linked : before.linked) (state : r.state = before.state) :
    r.missEffects limits turn (.good corrected ack) before =
      { record :=
          { r with
            state := .bound, missCount := 0, offset := if before.state = .missing then turn.offset else r.offset }
        changed := decide (before.state ≠ .bound), lost := false } := by
  obtain was | was | was := linked
  · have bound : r.state = .bound := state.trans was
    simp only [Record.missEffects, was, Record.quiet, ← bound]
    simp [bound]
  · simp [Record.missEffects, was]
  · simp [Record.missEffects, was]

theorem changed_heardReply {s : State} {turn : LabelTurn} {ack : Ack}
    (quiet : (s.record turn.handle).reportNews s.limits ack = false) : (s.heardReply turn ack).changed = s.changed := by
  rw [State.heardReply, report_eq]
  have quiet : (State.record { s with context := none } turn.handle).reportNews s.limits ack = false := quiet
  rw [quiet]
  rfl

/-- What a GOOD reply leaves of a BOUND, MISSING or LOST record, with `e` the record after its confirmation and `v` the
record at the end (R66, R131). -/
structure RepliedTo (s : State) (turn : LabelTurn) (ack : Ack) (e v : Record) : Prop where
  record : v =
    { s.record turn.handle with
      state := .bound, missCount := 0
      offset := if (s.record turn.handle).state = .missing then turn.offset else (s.record turn.handle).offset
      lastHeard := some { superframe := turn.superframe, slot := turn.slot }
      supply := some ack.supply, lowSupply := decide (ack.supply.toNat ≤ s.limits.supplyThreshold)
      pressBaseline := some ack.presses, presses := (s.record turn.handle).pressesAfter ack.presses
      period := e.period, pendingPeriod := e.pendingPeriod, modeConfirmed := e.modeConfirmed, modeHold := e.modeHold
      seat := e.seat, target := e.target, fields := e.fields
      level := v.level, windowTurns := v.windowTurns, windowBad := v.windowBad, cleanWindows := v.cleanWindows }
  probe : turn.kind = .probe → SameWindow (s.record turn.handle) v

section
variable {s : State} {turn : LabelTurn} (corrected : Nat) (ack : Ack) (linked : (s.record turn.handle).linked)
include linked

/-- The judgement of a GOOD reply on the record that its confirmation leaves. -/
theorem judge_repliedTo {news : Bool} {t : State} (confirms : Confirms turn.handle news (s.heardReply turn ack) t)
    {j : Judged} (judgement : (t.record turn.handle).judge s.limits turn (.good corrected ack)
      (s.heardRecord turn (.good corrected ack)) = j) :
    RepliedTo s turn ack (t.record turn.handle) j.record ∧ j.lost = false ∧
      j.changed = (decide ((s.record turn.handle).state ≠ .bound) ||
        decide (j.record.level ≠ (s.record turn.handle).level)) := by
  have heard := record_heardReply (s := s) (turn := turn) ack
  have record := confirms.record
  rw [heard] at record
  have state : (t.record turn.handle).state = (s.heardRecord turn (.good corrected ack)).state := by rw [record]; rfl
  have missed := Record.missEffects_good s.limits turn corrected ack
    (before := s.heardRecord turn (.good corrected ack)) linked state
  obtain ⟨judged, lost, changed⟩ :=
    (t.record turn.handle).judge_frame s.limits turn (.good corrected ack) (s.heardRecord turn (.good corrected ack))
  have uncounted (probe : turn.kind = .probe) := Record.judge_uncounted (r := t.record turn.handle) (limits := s.limits)
    (Bool.eq_false_iff.mpr (countedTurn_idle (before := s.heardRecord turn (.good corrected ack)) (.inl probe)
      (.good corrected ack)))
  rw [missed] at judged lost changed uncounted
  rw [judgement] at judged lost changed uncounted
  generalize t.record turn.handle = e at *
  refine ⟨⟨?_, fun probe => ?_⟩, lost, ?_⟩
  · refine judged.trans ?_
    rw [record]
    rfl
  · rw [uncounted probe, record]
    exact {}
  · refine changed.trans ?_
    rw [record]
    rfl

end

/-- What the close of a turn with a GOOD reply leaves on a BOUND, MISSING or LOST record: `e` is the state after the
confirmation, `moved` whether the judgement inserted the handle (R22, R66). -/
structure GoodClose (s : State) (turn : LabelTurn) (ack : Ack) (e : State) (moved : Bool) (t : State) : Prop where
  context : t.context = none
  repliedTo : RepliedTo s turn ack (e.record turn.handle) (t.record turn.handle)
  moves : moved = (decide ((s.record turn.handle).state ≠ .bound) ||
    decide ((t.record turn.handle).level ≠ (s.record turn.handle).level))
  isChanged : t.isChanged turn.handle = (moved || e.isChanged turn.handle)
  changedFlag : t.flag .changed = (moved || e.flag .changed)
  changed : moved = false → t.changed = e.changed
  flags : ∀ f, f ≠ .censusDone → f ≠ .changed → t.flag f = e.flag f
  cells : t.cells = e.cells
  seats : t.seats = e.seats
  offerQueue : t.offerQueue = s.offerQueue
  joinQueue : t.joinQueue = s.joinQueue
  others : ∀ k, k ≠ turn.handle → t.record k = s.record k ∧ t.isChanged k = s.isChanged k

theorem exec_closes_linked {s : State} {turn : LabelTurn} {frame : Uplink} {corrected : Nat} {ack : Ack}
    (out : s.inReset = false) (running : s.time.link = .running) (label : s.context = some (.label turn))
    (listening : turn.phase = .listening)
    (good : classifyUplink frame = .ack (linkAddress turn.handle) turn.tag ack corrected)
    (linked : (s.record turn.handle).linked) (same : (s.record turn.handle).generation = turn.generation) {news : Bool}
    (confirms : Confirms turn.handle news (s.heardReply turn ack) ((s.heardReply turn ack).goodEffects turn ack)) :
    ∃ t moved, exec (.uplinkFrame frame) s = .next t ∧
      GoodClose s turn ack ((s.heardReply turn ack).goodEffects turn ack) moved t := by
  obtain ⟨t, run, counted⟩ := exec_closes_running out running label listening (.good good)
  rw [claimed_linked linked same] at counted
  have before := heardReply_frame (s := s) (turn := turn) ack
  have heardActs := actsOn_heardReply (s := s) (turn := turn) ack
  obtain ⟨j, judgement⟩ : ∃ j, (((s.heardReply turn ack).goodEffects turn ack).record turn.handle).judge s.limits turn
      (.good corrected ack) (s.heardRecord turn (.good corrected ack)) = j := ⟨_, rfl⟩
  obtain ⟨repliedTo, lost, moves⟩ := judge_repliedTo corrected ack linked confirms judgement
  change Counted (((s.heardReply turn ack).goodEffects turn ack).judgeTurn turn (.good corrected ack)
    (s.heardRecord turn (.good corrected ack))) t at counted
  generalize (s.heardReply turn ack).goodEffects turn ack = e at *
  have limits : e.limits = s.limits := by rw [confirms.acts.limits, heardActs.limits]
  have frame := judgeTurn_frame e turn (.good corrected ack) (s.heardRecord turn (.good corrected ack))
  have acts := actsOn_judgeTurn e turn (.good corrected ack) (s.heardRecord turn (.good corrected ack))
  have record := record_judgeTurn e turn (.good corrected ack) (s.heardRecord turn (.good corrected ack))
  have isChanged := isChanged_judgeTurn e turn (.good corrected ack) (s.heardRecord turn (.good corrected ack))
  have flag := flag_judgeTurn e turn (.good corrected ack) (s.heardRecord turn (.good corrected ack))
  have changed := changed_judgeTurn e turn (.good corrected ack) (s.heardRecord turn (.good corrected ack))
  rw [limits, judgement] at record isChanged changed
  simp only [limits, judgement] at flag
  generalize e.judgeTurn turn (.good corrected ack) (s.heardRecord turn (.good corrected ack)) = u at *
  have recordIs : t.record turn.handle = j.record := (counted.record _).trans record
  refine ⟨t, j.changed, run, ?_⟩
  constructor
  case context => rw [counted.context, acts.context, confirms.acts.context, heardActs.context]
  case repliedTo => exact recordIs ▸ repliedTo
  case moves => exact recordIs ▸ moves
  case isChanged => rw [counted.isChanged, isChanged]
  case changedFlag =>
    rw [counted.flags _ (by decide), flag, lost]
    simp [Bool.or_comm]
  case changed =>
    intro quiet
    rw [counted.changed, changed quiet]
  case flags =>
    intro f notDone notChanged
    rw [counted.flags f notDone, flag, lost]
    simp [notChanged]
  case cells => rw [counted.cells, frame]
  case seats => rw [counted.seats, frame]
  case offerQueue => rw [counted.offerQueue, frame, confirms.offerQueue, before]
  case joinQueue => rw [counted.joinQueue, acts.joinQueue, confirms.acts.joinQueue, heardActs.joinQueue]
  case others =>
    intro k other
    rw [counted.record, counted.isChanged, acts.others k other, acts.marks k other, confirms.acts.others k other,
      confirms.acts.marks k other, heardActs.others k other, heardActs.marks k other]
    exact ⟨rfl, rfl⟩

/-- Settles O46: the confirmation by its case, then the judgement. -/
theorem goodReplyConfirmsDirective : Obligations.GoodReplyConfirmsDirective := by
  intro s turn frame ack corrected out running label listening good r low presses linked same
  have linkedHeard := linked_heardReply (turn := turn) ack linked
  have heard := record_heardReply (s := s) (turn := turn) ack
  have heardFrame := heardReply_frame (s := s) (turn := turn) ack
  obtain ⟨news, confirms⟩ := confirms_goodEffects ack linkedHeard
  obtain ⟨t, moved, run, closed⟩ := exec_closes_linked out running label listening good linked same confirms
  have confirmation := confirmation_goodEffects (ack := ack) linkedHeard
  have own (kind : turn.kind = .label) := goodEffects_label ack linkedHeard kind
  have probes (kind : turn.kind = .probe) := goodEffects_probe ack linkedHeard kind
  have heardSets : SetsOnly [.changed] s (s.heardReply turn ack) :=
    setsOnly_report (s := { s with context := none }) _ ack
  have sets := setsOnly_goodEffects (s := s.heardReply turn ack) turn ack
  have kept (f : EventFlag) (other : f ∉ [.censusDone, .refused, .changed]) : t.flag f = s.flag f := by
    simp only [List.mem_cons, List.not_mem_nil, or_false, not_or] at other
    obtain ⟨notDone, notRefused, notChanged⟩ := other
    rw [closed.flags f notDone notChanged, sets f (by simp [notRefused, notChanged]),
      heardSets f (by simpa using notChanged)]
  generalize (s.heardReply turn ack).goodEffects turn ack = e at *
  have inserted (news : e.isChanged turn.handle = true ∧ e.flag .changed = true) :
      t.isChanged turn.handle = true ∧ t.flag .changed = true := by
    rw [closed.isChanged, closed.changedFlag, news.1, news.2, Bool.or_true]
    exact ⟨rfl, rfl⟩
  have reported (news : r.reportNews s.limits ack = true) : e.isChanged turn.handle = true ∧ e.flag .changed = true := by
    rw [confirms.isChanged, confirms.changedFlag, isChanged_heardReply, flag_heardReply, news]
    simp
  have record := closed.repliedTo.record
  refine ⟨t, run, closed.context, ?_, ?_, ?_, ?_, ?_, ?_, ?_, ?_, fun found => ?_, fun changed => ?_,
    fun bound kind poll lowSame pressesSame level => ?_, ?_, fun other => ?_, fun probe => ?_, kept _ (by decide),
    kept _ (by decide), closed.joinQueue, fun period kind work => ?_, fun other => ?_, fun mode kind work => ?_,
    fun other => ?_, fun n old target seat confirmed => ?_, fun other => ?_, ?_, ?_, ?_, closed.offerQueue, closed.others⟩
  · rw [record]
  · rw [record]
  · rw [record]
  · rw [record]
  · rw [record]
  · rw [record]
  · rw [record]
  · rw [record]
    rfl
  · have moves : moved = true := by rw [closed.moves, decide_eq_true found, Bool.true_or]
    rw [closed.isChanged, closed.changedFlag, moves]
    exact ⟨rfl, rfl⟩
  · refine inserted (reported (Bool.or_eq_true_iff.mpr ?_))
    obtain lowChanged | rise := changed
    · exact .inl (bne_iff_ne.mpr (Ne.symm lowChanged))
    · exact .inr (decide_eq_true rise)
  · have still : moved = false := by
      rw [closed.moves, decide_eq_false (not_not.mpr bound), decide_eq_false (not_not.mpr level)]
      rfl
    have quiet : r.reportNews s.limits ack = false := by
      refine Bool.or_eq_false_iff.mpr ⟨?_, decide_eq_false (not_lt.mpr pressesSame)⟩
      rw [bne_eq_false_iff_eq]
      exact lowSame.symm
    obtain rfl : e = s.heardReply turn ack := by
      rw [own kind, poll]
      rfl
    rw [closed.changed still, changed_heardReply quiet, closed.changedFlag, still, flag_heardReply, quiet]
    exact ⟨rfl, by simp⟩
  · refine record.trans ?_
    rw [record]
    rfl
  · obtain ⟨fields, cells, sets⟩ := confirmation.fields other
    rw [record, closed.cells, closed.flags _ (by decide) (by decide), sets _ (by decide), heardSets _ (by decide), fields,
      cells, heard, heardFrame]
    exact ⟨rfl, rfl, rfl⟩
  · have window := closed.repliedTo.probe probe
    exact ⟨window.level, window.windowTurns, window.windowBad, window.cleanWindows⟩
  · obtain rfl : e = (s.heardReply turn ack).confirmRetime turn.handle period := by
      rw [own kind, work]
      rfl
    have confirms : Confirms turn.handle true (s.heardReply turn ack) _ := confirms_retime period
    rw [record, record_confirmRetime, heard]
    exact ⟨rfl, rfl, inserted ⟨confirms.isChanged, confirms.changedFlag⟩⟩
  · obtain ⟨period, pendingPeriod⟩ := confirmation.period other
    rw [record, period, pendingPeriod, heard]
    exact ⟨rfl, rfl⟩
  · obtain rfl : e = (s.heardReply turn ack).confirmMode turn.handle mode := by
      rw [own kind, work]
      rfl
    have confirms : Confirms turn.handle true (s.heardReply turn ack) _ := confirms_mode mode
    rw [record, record_confirmMode, heard]
    refine ⟨rfl, ?_, inserted ⟨confirms.isChanged, confirms.changedFlag⟩⟩
    exact modeHold_eq r mode
  · obtain ⟨modeConfirmed, modeHold⟩ := confirmation.modes other
    rw [record, modeConfirmed, modeHold, heard]
    exact ⟨rfl, rfl⟩
  · have targetHeard : ((s.heardReply turn ack).record turn.handle).target = some n := by
      rw [heard]
      exact target
    have seatHeard : ((s.heardReply turn ack).record turn.handle).seat = some old := by
      rw [heard]
      exact seat
    obtain rfl : e = (s.heardReply turn ack).confirmMove turn.handle := by
      obtain ⟨kind, work⟩ | kind := confirmed
      · rw [own kind, work]
        exact if_pos targetHeard
      · exact probes kind
    have confirms : Confirms turn.handle true (s.heardReply turn ack) _ := confirms_move targetHeard
    have seats : ((s.heardReply turn ack).confirmMove turn.handle).seats = s.seats.set old.val .free := by
      rw [confirmMove_some targetHeard, seatHeard, heardFrame]
      rfl
    rw [record, record_confirmMove targetHeard, closed.seats]
    exact ⟨rfl, rfl, seats, inserted ⟨confirms.isChanged, confirms.changedFlag⟩⟩
  · obtain ⟨seat, target, seats⟩ := confirmation.seats (other.imp_right fun still => by rw [heard]; exact still)
    rw [record, closed.seats, seat, target, seats, heard, heardFrame]
    exact ⟨rfl, rfl, rfl⟩
  · rw [record]
  · rw [record]
  · rw [record]

end Sys2Proof.Machine
end


section
/-! PROOFS. JOINs in the join window (R96 to R101, R104): O52, O53. -/

namespace Sys2Proof.Machine

/-! ## The join queue (R104) -/

section
variable {s : State} {serial : BitVec 32}

theorem inJoinQueue_iff : s.inJoinQueue serial = true ↔ ∃ e ∈ s.joinQueue, e.serial = serial := by
  simp only [State.inJoinQueue, List.any_eq_true, beq_iff_eq]

variable (supply : BitVec 4) (corrected : Nat)

/-- An entry of the join queue is refreshed in place. -/
theorem queueJoin_known (known : ∃ e ∈ s.joinQueue, e.serial = serial) :
    s.queueJoin serial supply corrected =
      { s with
        joinQueue := s.joinQueue.map fun e =>
          if e.serial = serial then e.refresh supply s.time.superframe corrected else e } :=
  if_pos (inJoinQueue_iff.mpr known)

variable (unknown : ∀ e ∈ s.joinQueue, e.serial ≠ serial)
include unknown

theorem inJoinQueue_unknown : ¬s.inJoinQueue serial = true := by
  rw [inJoinQueue_iff]
  rintro ⟨e, mem, same⟩
  exact unknown e mem same

/-- A new serial joins the queue while there is room. -/
theorem queueJoin_room (room : s.joinQueue.length < 8) :
    s.queueJoin serial supply corrected =
      State.setFlag
        { s with
          joinQueue := s.joinQueue ++
            [{ serial := serial, supply := supply, heard := 1, lastHeard := s.time.superframe
               corrected := corrected }] } .joinHeard :=
  (if_neg (inJoinQueue_unknown unknown)).trans (if_pos room)

/-- A new serial is dropped when the queue is full. -/
theorem queueJoin_full (full : 8 ≤ s.joinQueue.length) :
    s.queueJoin serial supply corrected = s.setFlag .joinDropped :=
  (if_neg (inJoinQueue_unknown unknown)).trans (if_neg (not_lt.mpr full))

end

/-! ## A frame in the join window (R96, R97) -/

section
variable {s : State} {frame : Uplink} {n : BitVec 16} (out : s.inReset = false)
  (window : s.context = some (.joinWindow n))
include out window

/-- A JOIN with address 0 and a valid serial is processed by where its serial is found. -/
theorem exec_uplinkFrame_join {serial : BitVec 32} {supply : BitVec 4} {corrected : Nat}
    (join : classifyUplink frame = .join 0 serial supply corrected) (valid : serial ≠ 0 ∧ serial ≠ 0xFFFFFFFF) :
    exec (.uplinkFrame frame) s = .next (s.processJoin serial supply corrected) := by
  rw [exec_uplinkFrame_window out window, join]
  exact congrArg Host.Outcome.next (if_pos ⟨rfl, validSerial_iff.mpr valid⟩)

theorem exec_uplinkFrame_invalid {serial : BitVec 32} {supply : BitVec 4} {corrected : Nat}
    (join : classifyUplink frame = .join 0 serial supply corrected) (invalid : serial = 0 ∨ serial = 0xFFFFFFFF) :
    exec (.uplinkFrame frame) s = .next s := by
  rw [exec_uplinkFrame_window out window, join]
  refine congrArg Host.Outcome.next (if_neg ?_)
  rintro ⟨_, valid⟩
  obtain ⟨some, notAll⟩ := validSerial_iff.mp valid
  obtain none | all := invalid
  · exact some none
  · exact notAll all

theorem exec_uplinkFrame_noJoin
    (other : ∀ serial supply corrected, classifyUplink frame ≠ .join 0 serial supply corrected) :
    exec (.uplinkFrame frame) s = .next s := by
  rw [exec_uplinkFrame_window out window]
  cases decoded : classifyUplink frame with
  | join address serial supply corrected =>
    refine congrArg Host.Outcome.next (if_neg ?_)
    rintro ⟨rfl, _⟩
    exact other serial supply corrected decoded
  | ack _ _ _ _ | damaged | other => rfl

end

theorem processJoin_unknown {s : State} {serial : BitVec 32}
    (unknown : ∀ h, (s.record h).state ≠ .free → (s.record h).serial ≠ serial) (supply : BitVec 4) (corrected : Nat) :
    s.processJoin serial supply corrected = s.queueJoin serial supply corrected := by
  rw [State.processJoin, (findSerial_none s).mpr unknown]

/-- Settles O52: the frame is a JOIN or not; then the join queue decides. -/
theorem joinFromUnknownSerial : Obligations.JoinFromUnknownSerial := by
  intro s frame n out window
  refine ⟨fun serial supply corrected join notZero notOnes unknown => ?_, exec_uplinkFrame_noJoin out window,
    fun serial supply corrected => exec_uplinkFrame_invalid out window⟩
  rw [exec_uplinkFrame_join out window join ⟨notZero, notOnes⟩, processJoin_unknown unknown]
  refine ⟨fun known => ?_, fun fresh room => ?_, fun fresh full => ?_⟩
  · rw [queueJoin_known supply corrected known]
    rfl
  · rw [queueJoin_room supply corrected fresh room]
  · rw [queueJoin_full supply corrected fresh full]

/-! ## A JOIN from the serial of a record (R98 to R101) -/

/-- A serial that a record carries is found at that record (R3). -/
theorem findSerial_of_distinct {s : State} (serials : SerialInvariant s) {h : Handle}
    (occupied : (s.record h).state ≠ .free) : s.findSerial (s.record h).serial = some h := by
  cases found : s.findSerial (s.record h).serial with
  | none => exact absurd rfl ((findSerial_none s).mp found h occupied)
  | some k =>
    obtain ⟨occupiedToo, same⟩ := findSerial_some s found
    rw [serials.distinct h k occupied occupiedToo same.symm]

section
variable {s : State} {h : Handle} {serial : BitVec 32} (found : s.findSerial serial = some h) (supply : BitVec 4)
  (corrected : Nat)
include found

theorem processJoin_offered (offered : (s.record h).state = .offered) :
    s.processJoin serial supply corrected = s.joinOffered h supply := by
  simp only [State.processJoin, found, offered]

theorem processJoin_linked (linked : (s.record h).linked) :
    s.processJoin serial supply corrected = s.rejoin h supply := by
  obtain state | state | state := linked <;> simp only [State.processJoin, found, state]

theorem processJoin_releasing (releasing : (s.record h).state = .releasing) :
    s.processJoin serial supply corrected =
      (s.completeRelease h .acknowledged .free).queueJoin serial supply corrected := by
  simp only [State.processJoin, found, releasing]

end

/-! ## A rejoin, part by part (R100, R101) -/

section
variable (s : State) (h : Handle) (supply : BitVec 4)

theorem offerQueue_rejoin : (s.rejoin h supply).offerQueue = s.offerQueue ++ [h] := by
  rw [rejoin_eq]
  show (s.rejoinFreed h).offerQueue ++ [h] = _
  rw [rejoinFreed_frame]

theorem setsOnly_rejoin : SetsOnly [.changed] s (s.rejoin h supply) := by
  rw [rejoin_eq]
  refine .trans (.of_port ?_) setsOnly_markChanged
  show (s.rejoinFreed h).port = s.port
  rw [rejoinFreed_frame]

/-- A rejoin is reported (R100). -/
theorem isChanged_rejoin : (s.rejoin h supply).isChanged h = true ∧ (s.rejoin h supply).flag .changed = true := by
  rw [rejoin_eq, isChanged_markChanged, flag_markChanged]
  simp

/-- The cells of REMOVING entries return (R101). -/
theorem cells_rejoin (c : CellNo) : (s.rejoin h supply).cells[c.val] =
    if ∃ e ∈ (s.record h).fields, e.removing = true ∧ e.cell = c then none else s.cells[c.val] := by
  have cells : (s.rejoin h supply).cells = (s.freeCellsOf ((s.record h).fields.filter (·.removing))).cells := by
    rw [rejoin_eq]
    simp only [State.rejoinFreed]
    split
    · exact setSeat?_cells _ _ _
    · rfl
  have freed := cells_freeCellsOf ((s.record h).fields.filter (·.removing)) s c
  simp only [List.mem_map, List.mem_filter, and_assoc] at freed
  rw [cells]
  exact freed

/-- The old seat of a record that had a move target cools (R100). -/
theorem seats_rejoin_moving {old : SeatNo} (seat : (s.record h).seat = some old) (moving : (s.record h).target ≠ none) :
    (s.rejoin h supply).seats = s.seats.set old.val (.cooling 128) := by
  have freed : (s.freeCellsOf ((s.record h).fields.filter (·.removing))).seats = s.seats := by rw [freeCellsOf_frame]
  have seats : (s.rejoin h supply).seats = (s.rejoinFreed h).seats := by rw [rejoin_eq]; rfl
  rw [seats, State.rejoinFreed]
  simp only [Option.isSome_iff_ne_none.mpr moving, if_true, seat]
  show (s.freeCellsOf ((s.record h).fields.filter (·.removing))).seats.set old.val .cooled = _
  rw [freed]
  rfl

theorem seats_rejoin_still (still : (s.record h).target = none) : (s.rejoin h supply).seats = s.seats := by
  have seats : (s.rejoin h supply).seats = (s.rejoinFreed h).seats := by rw [rejoin_eq]; rfl
  rw [seats, State.rejoinFreed]
  simp only [still, Option.isSome_none, Bool.false_eq_true, if_false]
  rw [freeCellsOf_frame]

end

/-! ## A JOIN from an OFFERED record (R98) -/

section
variable (s : State) (h : Handle) (supply : BitVec 4)

theorem joinOffered_eq : s.joinOffered h supply =
    (s.setRecord h (s.joinReport { s.record h with attempts := 0 } supply)).markChangedIf
      ((s.record h).lowSupply != decide (supply.toNat ≤ s.limits.supplyThreshold)) h := rfl

theorem joinOffered_frame : s.joinOffered h supply =
    { s with
      records := (s.joinOffered h supply).records, changed := (s.joinOffered h supply).changed
      port := (s.joinOffered h supply).port } := by
  rw [joinOffered_eq]
  unfold State.markChangedIf
  split <;> rfl

theorem record_joinOffered (k : Handle) : (s.joinOffered h supply).record k =
    if k = h then s.joinReport { s.record h with attempts := 0 } supply else s.record k := by
  rw [joinOffered_eq, record_markChangedIf, record_setRecord]

theorem isChanged_joinOffered : (s.joinOffered h supply).isChanged h =
    (s.isChanged h || ((s.record h).lowSupply != decide (supply.toNat ≤ s.limits.supplyThreshold))) := by
  rw [joinOffered_eq, isChanged_markChangedIf, decide_eq_true rfl, Bool.and_true, Bool.or_comm]
  rfl

end

/-- A JOIN from a serial the queue does not hold changes the join queue and the event flags (R104). -/
theorem queueJoin_frame (s : State) (serial : BitVec 32) (supply : BitVec 4) (corrected : Nat) :
    s.queueJoin serial supply corrected =
      { s with
        joinQueue := (s.queueJoin serial supply corrected).joinQueue
        port := (s.queueJoin serial supply corrected).port } := by
  unfold State.queueJoin
  split
  · rfl
  · split <;> rfl

theorem setsOnly_queueJoin (s : State) (serial : BitVec 32) (supply : BitVec 4) (corrected : Nat) :
    SetsOnly [.joinHeard, .joinDropped] s (s.queueJoin serial supply corrected) := by
  unfold State.queueJoin
  split
  · exact .of_port rfl
  · split
    · exact SetsOnly.trans (.of_port rfl) ((setsOnly_setFlag _).mono (by decide))
    · exact (setsOnly_setFlag _).mono (by decide)

/-- The join queue after it leaves a completed release. -/
theorem ReleaseLeft.queued {s u : State} {h : Handle} {outcome : ReleaseOutcome} {left : Seat}
    (r : ReleaseLeft s h outcome left u) (serial : BitVec 32) (supply : BitVec 4) (corrected : Nat) :
    ReleaseLeft s h outcome left (u.queueJoin serial supply corrected) := by
  have frame := queueJoin_frame u serial supply corrected
  have sets := setsOnly_queueJoin u serial supply corrected
  generalize u.queueJoin serial supply corrected = t at *
  refine ⟨?_, fun n => ?_, fun c => ?_, fun k other => ?_, ?_, (sets _ (by decide)).trans r.released,
    (sets _ (by decide)).trans r.changed⟩
  · rw [frame]
    exact r.record
  · rw [frame]
    exact r.seats n
  · rw [frame]
    exact r.cells c
  · rw [frame]
    exact r.others k other
  · rw [frame]
    exact r.isChanged

/-- Settles O53: by the state of the record that the serial finds. -/
theorem joinFromKnownSerial : Obligations.JoinFromKnownSerial := by
  intro s frame n h supply corrected out window serials r join occupied heard low
  have found : s.findSerial r.serial = some h := findSerial_of_distinct serials occupied
  have run := exec_uplinkFrame_join out window join (serials.valid h occupied)
  refine ⟨_, run, ?_⟩
  have states : r.state = .offered ∨ r.linked ∨ r.state = .releasing := by
    unfold Record.linked
    cases state : r.state <;> simp_all
  obtain offered | linked | releasing := states
  · rw [processJoin_offered found supply corrected offered, joinOffered_frame]
    refine ⟨fun k other => ?_, fun _ => ⟨?_, rfl, rfl, rfl, rfl, isChanged_joinOffered s h supply⟩, fun linked => ?_,
      fun releasing => ?_⟩
    · exact (record_joinOffered s h supply k).trans (if_neg other)
    · exact (record_joinOffered s h supply h).trans (if_pos rfl)
    · obtain state | state | state := linked <;> exact absurd (offered.symm.trans state) nofun
    · exact absurd (offered.symm.trans releasing) nofun
  · rw [processJoin_linked found supply corrected linked]
    have sets := setsOnly_rejoin s h supply
    have acts := actsOn_rejoin s h supply
    refine ⟨acts.others, fun offered => ?_, fun _ => ⟨?_, offerQueue_rejoin s h supply, acts.joinQueue,
      fun old => seats_rejoin_moving s h supply, seats_rejoin_still s h supply, cells_rejoin s h supply,
      (isChanged_rejoin s h supply).1, (isChanged_rejoin s h supply).2, sets _ (by decide), sets _ (by decide)⟩,
      fun releasing => ?_⟩
    · obtain state | state | state := linked <;> exact absurd (offered.symm.trans state) nofun
    · have seat : (if r.target.isSome then r.target else r.seat) = r.target.or r.seat := by
        cases r.target <;> rfl
      rw [rejoin_record, ← seat]
      rfl
    · obtain state | state | state := linked <;> exact absurd (releasing.symm.trans state) nofun
  · rw [processJoin_releasing found supply corrected releasing]
    have left := (releaseLeft_completeRelease s h .acknowledged .free).queued r.serial supply corrected
    have joinQueue : (s.completeRelease h .acknowledged .free).joinQueue = s.joinQueue :=
      (actsOn_completeRelease s .acknowledged .free).joinQueue
    have fresh : ∀ e ∈ (s.completeRelease h .acknowledged .free).joinQueue, e.serial ≠ r.serial := by
      rw [joinQueue]
      exact fun e mem same => serials.unknown e mem h occupied same.symm
    refine ⟨left.others, fun offered => ?_, fun linked => ?_, fun _ => ⟨left.record, left.seats, left.isChanged,
      left.released, left.changed, fun room => ?_, fun full => ?_⟩⟩
    · exact absurd (offered.symm.trans releasing) nofun
    · obtain state | state | state := linked <;> exact absurd (releasing.symm.trans state) nofun
    · rw [queueJoin_room supply corrected fresh (joinQueue ▸ room), flag_setFlag]
      exact ⟨by simp, _, congrArg (· ++ _) joinQueue, rfl, rfl, rfl⟩
    · rw [queueJoin_full supply corrected fresh (joinQueue ▸ full), flag_setFlag]
      exact ⟨joinQueue, by simp⟩

end Sys2Proof.Machine
end


section
/-! PROOFS. The check of a frame and what a decoded frame is (R59, R185, R186): O44. -/

namespace Sys2Proof.Machine

/-! ## Bits -/

theorem setWidth_eq_extractLsb' (b : Byte) (n : Nat) : b.setWidth n = b.extractLsb' 0 n := by
  apply BitVec.eq_of_toNat_eq
  simp

theorem high_nibble (b : Byte) : (b >>> 4).setWidth 4 = b.extractLsb' 4 4 := by
  apply BitVec.eq_of_toNat_eq
  simp

/-- The kind of a reply frame, in the high nibble (R186). -/
theorem toNat_div_iff {b : Byte} {k : Nat} (small : k < 16) : b.toNat / 16 = k ↔ b.extractLsb' 4 4 = BitVec.ofNat 4 k := by
  have below := b.isLt
  rw [← BitVec.toNat_inj, BitVec.extractLsb'_toNat, BitVec.toNat_ofNat, Nat.shiftRight_eq_div_pow]
  omega

/-! ## The check (R185) -/

/-- One byte of the check: eight shifts of the register with the byte in its high half. -/
theorem crcByte_eq (reg : BitVec 16) (b : Byte) : crcByte reg b = crcShift^[8] (reg ^^^ (b ++ 0#8)) := by
  have high : b.setWidth 16 <<< 8 = b ++ 0#8 := by
    apply BitVec.eq_of_toNat_eq
    have below := b.isLt
    rw [toNat_append_byte, BitVec.toNat_shiftLeft, BitVec.toNat_setWidth, Nat.shiftLeft_eq]
    simp
    omega
  rw [crcByte, List.foldl_const, List.length_range, high]

theorem frameCheck_concat (bytes : List Byte) (b : Byte) : frameCheck (bytes ++ [b]) = crcByte (frameCheck bytes) b := by
  rw [frameCheck, frameCheck, List.foldl_append]
  rfl

/-! ## GOOD and DAMAGED (R59, R186) -/

section
variable (address kindTag level length : Byte) (payload : List Byte) (check : BitVec 16) (corrected : Nat)

theorem classifyUplink_damaged
    (bad : ¬(length.toNat ≤ 48 ∧ frameCheck ([address, kindTag, level, length] ++ payload) = check)) :
    classifyUplink (.decoded address kindTag level length payload check corrected) = .damaged := by
  simp only [classifyUplink]
  rcases le_or_gt length.toNat 48 with short | long
  · exact (if_neg (not_lt.mpr short)).trans (if_neg fun same => bad ⟨short, same⟩)
  · exact if_pos long

theorem classifyUplink_good
    (good : length.toNat ≤ 48 ∧ frameCheck ([address, kindTag, level, length] ++ payload) = check) :
    classifyUplink (.decoded address kindTag level length payload check corrected) =
      classifyGood address kindTag length payload (min corrected 63) := by
  simp only [classifyUplink]
  exact (if_neg (not_lt.mpr good.1)).trans (if_pos good.2)

end

section
variable {address kindTag length : Byte} {payload : List Byte} {corrected : Nat}

theorem classifyGood_ne_damaged : classifyGood address kindTag length payload corrected ≠ .damaged := by
  unfold classifyGood
  split <;> nofun

theorem classifyGood_ack (kind : kindTag.toNat / 16 = 1) (a b : Byte) :
    classifyGood address kindTag 2 [a, b] corrected =
      .ack address (kindTag.setWidth 4)
        { supply := (a >>> 4).setWidth 4, presses := a.setWidth 4, refusals := b.setWidth 6 } corrected := by
  unfold classifyGood
  rw [kind]
  rfl

theorem classifyGood_join (kind : kindTag.toNat / 16 = 2) (a b c d e : Byte) :
    classifyGood address kindTag 5 [a, b, c, d, e] corrected =
      .join address (word32 a b c d) (e.setWidth 4) corrected := by
  unfold classifyGood
  rw [kind]
  rfl

/-- A GOOD frame that is of neither kind with its length is none of the two (R186). -/
theorem classifyGood_other (noAck : ¬(kindTag.extractLsb' 4 4 = 1#4 ∧ length = 2))
    (noJoin : ¬(kindTag.extractLsb' 4 4 = 2#4 ∧ length = 5)) :
    classifyGood address kindTag length payload corrected = .other := by
  unfold classifyGood
  split
  case h_1 kind two =>
    refine absurd ⟨(toNat_div_iff (by decide)).mp kind, ?_⟩ noAck
    exact BitVec.eq_of_toNat_eq two
  case h_2 kind five =>
    refine absurd ⟨(toNat_div_iff (by decide)).mp kind, ?_⟩ noJoin
    exact BitVec.eq_of_toNat_eq five
  case h_3 => rfl

end

/-- Settles O44: the check byte by byte, then the kind and the length of a GOOD frame. -/
theorem uplinkClassification : Obligations.UplinkClassification := by
  refine ⟨⟨rfl, fun bytes b => ?_⟩, rfl, fun address kindTag level length payload check corrected => ?_⟩
  · rw [frameCheck_concat, crcByte_eq]
    rfl
  intro result good
  have result_good (sound : good) : result = classifyGood address kindTag length payload (min corrected 63) :=
    classifyUplink_good address kindTag level length payload check corrected sound
  refine ⟨classifyUplink_damaged address kindTag level length payload check corrected, fun sound => ?_,
    fun a b sound kind two bytes => ?_, fun a b c d e sound kind five bytes => ?_, fun sound noAck noJoin => ?_⟩
  · rw [result_good sound]
    exact classifyGood_ne_damaged
  · rw [result_good sound, bytes, two, classifyGood_ack ((toNat_div_iff (by decide)).mpr kind), high_nibble,
      setWidth_eq_extractLsb', setWidth_eq_extractLsb', setWidth_eq_extractLsb']
  · rw [result_good sound, bytes, five, classifyGood_join ((toNat_div_iff (by decide)).mpr kind), word32_eq_append,
      setWidth_eq_extractLsb']
  · rw [result_good sound]
    exact classifyGood_other noAck noJoin

end Sys2Proof.Machine
end


section
/-! PROOFS. STOP LINK and the end of a drain (R34, R37, R38, R65, R70): O12. -/

namespace Sys2Proof.Machine

/-! ## The claim of a close reads nothing of the Time Base -/

/-- The state with another Time Base. -/
def State.atTime (s : State) (time : TimeBase) : State := { s with time := time }

section
variable (s : State) (time : TimeBase) (h : Handle)

theorem markChangedIf_atTime (b : Bool) :
    (s.atTime time).markChangedIf b h = (s.markChangedIf b h).atTime time := by
  cases b <;> rfl

theorem freeCellsOf_atTime (entries : List FieldEntry) :
    (s.atTime time).freeCellsOf entries = (s.freeCellsOf entries).atTime time :=
  List.foldl_hom (fun t : State => t.atTime time) fun _ _ => rfl

theorem setSeat?_atTime (n : Option SeatNo) (v : Seat) : (s.atTime time).setSeat? n v = (s.setSeat? n v).atTime time := by
  cases n <;> rfl

theorem completeRelease_atTime (outcome : ReleaseOutcome) (left : Seat) :
    (s.atTime time).completeRelease h outcome left = (s.completeRelease h outcome left).atTime time := by
  have record : (s.atTime time).record h = s.record h := rfl
  simp only [State.completeRelease, State.vacate, record, freeCellsOf_atTime, setSeat?_atTime]
  rfl

theorem report_atTime (heard : Heard) (ack : Ack) :
    (s.atTime time).report h heard ack = (s.report h heard ack).atTime time := by
  rw [report_eq, report_eq, ← markChangedIf_atTime]
  rfl

theorem confirmMove_atTime : (s.atTime time).confirmMove h = (s.confirmMove h).atTime time := by
  cases target : (s.record h).target with
  | none => rw [confirmMove_none target, confirmMove_none (s := s.atTime time) target]
  | some n =>
    have record : (s.atTime time).record h = s.record h := rfl
    rw [confirmMove_some target, confirmMove_some (s := s.atTime time) target, record, setSeat?_atTime]
    rfl

theorem acknowledgeItem_atTime (item : Item) (refused : Bool) :
    (s.atTime time).acknowledgeItem h item refused = (s.acknowledgeItem h item refused).atTime time := by
  cases item with
  | set id version =>
    rw [acknowledgeItem_set, acknowledgeItem_set]
    cases refused <;> rfl
  | remove id =>
    have record : (s.atTime time).record h = s.record h := rfl
    simp only [State.acknowledgeItem, record]
    split
    · rfl
    · split <;> rfl

theorem acknowledgeFrom_atTime (refusals : BitVec 6) (items : List Item) : ∀ (i : Nat) (s : State),
    (s.atTime time).acknowledgeFrom h refusals i items = (s.acknowledgeFrom h refusals i items).atTime time := by
  induction items with
  | nil => exact fun _ _ => rfl
  | cons item items ih =>
    intro i s
    rw [State.acknowledgeFrom, State.acknowledgeFrom, acknowledgeItem_atTime, ih]

theorem confirmWork_atTime (work : Work) (ack : Ack) :
    (s.atTime time).confirmWork h work ack = (s.confirmWork h work ack).atTime time := by
  cases work with
  | poll | release | mode _ | retime _ => rfl
  | update items =>
    simp only [State.confirmWork, State.acknowledgeUpdate]
    rw [acknowledgeFrom_atTime, markChangedIf_atTime]
  | move n =>
    have record : (s.atTime time).record h = s.record h := rfl
    simp only [State.confirmWork, record]
    split
    · exact confirmMove_atTime s time h
    · rfl

variable (turn : LabelTurn)

theorem goodEffects_atTime (ack : Ack) : (s.atTime time).goodEffects turn ack = (s.goodEffects turn ack).atTime time := by
  have record : (s.atTime time).record turn.handle = s.record turn.handle := rfl
  unfold State.goodEffects
  rw [record]
  split
  case h_1 => rfl
  case h_2 | h_3 | h_4 => exact confirmWork_atTime s time _ _ ack
  case h_5 | h_6 | h_7 => exact confirmMove_atTime s time _
  case h_8 | h_9 | h_10 => rfl

theorem releaseUnanswered_atTime : (s.atTime time).releaseUnanswered turn = (s.releaseUnanswered turn).atTime time := by
  have same : (s.atTime time).releaseTurn turn = s.releaseTurn turn := rfl
  have record : (s.atTime time).record turn.handle = s.record turn.handle := rfl
  simp only [State.releaseUnanswered, same, record]
  split
  · exact completeRelease_atTime s time _ _ _
  · rfl

theorem replyEffects_atTime (outcome : TurnOutcome) :
    (s.atTime time).replyEffects turn outcome = (s.replyEffects turn outcome).atTime time := by
  cases outcome with
  | good _ ack =>
    have same : (s.atTime time).releaseTurn turn = s.releaseTurn turn := rfl
    simp only [State.replyEffects, same]
    split
    · exact completeRelease_atTime s time _ _ _
    · exact goodEffects_atTime s time turn ack
  | damaged | noReply => exact releaseUnanswered_atTime s time turn

theorem closeReport_atTime (outcome : TurnOutcome) :
    (s.atTime time).closeReport turn outcome = (s.closeReport turn outcome).atTime time := by
  cases outcome with
  | good _ ack => exact report_atTime s time _ _ ack
  | damaged | noReply => rfl

theorem judgeTurn_atTime (outcome : TurnOutcome) (before : Record) :
    (s.atTime time).judgeTurn turn outcome before = (s.judgeTurn turn outcome before).atTime time := by
  have record : (s.atTime time).record turn.handle = s.record turn.handle := rfl
  have limits : (s.atTime time).limits = s.limits := rfl
  have written (r : Record) : (s.atTime time).setRecord turn.handle r = (s.setRecord turn.handle r).atTime time := rfl
  simp only [State.judgeTurn, record, limits, written, markChangedIf_atTime]
  split <;> rfl

theorem applyClose_atTime (outcome : TurnOutcome) :
    (s.atTime time).applyClose turn outcome = (s.applyClose turn outcome).atTime time := by
  have live : (s.atTime time).claimLive turn.handle turn.generation = s.claimLive turn.handle turn.generation := rfl
  have record (t : State) : (t.atTime time).record turn.handle = t.record turn.handle := rfl
  simp only [State.applyClose, live, closeReport_atTime, replyEffects_atTime, record]
  split
  · split
    · rfl
    · exact judgeTurn_atTime _ time turn outcome _
  · rfl

theorem countCensus_atTime (outcome : TurnOutcome) :
    (s.atTime time).countCensus outcome = (s.countCensus outcome).atTime time := by
  have census : (s.atTime time).census = s.census := rfl
  simp only [State.countCensus, State.completeCensus, census]
  split
  · rfl
  · split <;> rfl

end

/-! ## The end of a drain (R38) -/

/-- A close moves no part of the Time Base but the tick count (R65). -/
theorem time_atClose (s : State) (turn : LabelTurn) (outcome : TurnOutcome) :
    (s.atClose turn outcome).time = { s.time with tick := (s.atClose turn outcome).time.tick } := by
  cases outcome <;> rfl

/-- The state before a drain ends is, but for the Time Base, the one that the same close leaves in RUNNING. -/
theorem claimed_running (s : State) (turn : LabelTurn) (outcome : TurnOutcome) (link : LinkState) :
    State.claimed { s with time := { s.time with link := link } } turn outcome =
      (s.claimed turn outcome).atTime { (s.atClose turn outcome).time with link := link } := by
  have before : State.atClose { s with time := { s.time with link := link } } turn outcome =
      (s.atClose turn outcome).atTime { (s.atClose turn outcome).time with link := link } := by
    cases outcome <;> rfl
  rw [State.claimed, before, applyClose_atTime]
  rfl

/-! ## STOP LINK (R37) -/

section
variable {s : State} {status : Byte} (hs : s.selected status)
include hs

theorem exec_stopLink :
    exec (.stopLink []) s = .next ((s.endTransaction [status]).stopLink.accept) := command0_selected s hs _

theorem exec_stopLink_idle (idle : s.time.link = .stopped ∨ s.time.link = .stopping) :
    exec (.stopLink []) s = .next (s.answered status [] .ok []) := by
  have link : (s.endTransaction [status]).time.link = s.time.link := rfl
  rw [exec_stopLink hs, State.stopLink, link]
  obtain link | link := idle <;> rw [link] <;> rfl

theorem exec_stopLink_starting (starting : s.time.link = .starting) :
    exec (.stopLink []) s = .next (s.halt.answered status [] .ok []) := by
  have link : (s.endTransaction [status]).time.link = .starting := starting
  rw [exec_stopLink hs, State.stopLink, link]
  rfl

variable (running : s.time.link = .running)
include running

theorem exec_stopLink_noTurn (idle : s.context = none ∨ ∃ n, s.context = some (.joinWindow n)) :
    exec (.stopLink []) s = .next ((s.halt.setFlag .linkState).answered status [] .ok []) := by
  have link : (s.endTransaction [status]).time.link = .running := running
  have context : (s.endTransaction [status]).context = s.context := rfl
  rw [exec_stopLink hs, State.stopLink, link, context]
  obtain context | ⟨n, context⟩ := idle <;> rw [context] <;> rfl

theorem exec_stopLink_turn
    (turn : (∃ turn, s.context = some (.label turn)) ∨ ∃ turn, s.context = some (.offer turn)) :
    exec (.stopLink []) s =
      .next (State.answered { s with time := { s.time with link := .stopping } } status [] .ok []) := by
  have link : (s.endTransaction [status]).time.link = .running := running
  have context : (s.endTransaction [status]).context = s.context := rfl
  rw [exec_stopLink hs, State.stopLink, link, context]
  obtain ⟨turn, context⟩ | ⟨turn, context⟩ := turn <;> rw [context] <;> rfl

end

/-- Settles O12: STOP LINK by the state of the engine, and a close that ends a drain beside the same close in RUNNING. -/
theorem stopLinkDrainsTurn : Obligations.StopLinkDrainsTurn := by
  refine ⟨fun s status hs => ?_, fun s turn row out stopping label listening kind => ?_⟩
  · intro stopped
    exact ⟨exec_stopLink_idle hs, exec_stopLink_starting hs, exec_stopLink_noTurn hs, exec_stopLink_turn hs⟩
  · have closes : ∃ outcome, Closes turn row outcome := by
      obtain rfl | ⟨frame, rfl, damaged | ⟨ack, corrected, good⟩⟩ := kind
      · exact ⟨_, .noReply⟩
      · exact ⟨_, .damaged damaged⟩
      · exact ⟨_, .good good⟩
    obtain ⟨outcome, closes⟩ := closes
    refine ⟨_, _, exec_closes out label listening closes,
      exec_closes (s := { s with time := { s.time with link := .running } }) out label listening closes, ?_⟩
    have asRunning := claimed_running s turn outcome .running
    rw [asRunning, countCensus_atTime]
    have counted := (counted_countCensus (s.claimed turn outcome) outcome).time
    rw [(actsOn_claimed s turn outcome).time] at counted
    generalize (s.claimed turn outcome).countCensus outcome = c at *
    have time := time_atClose s turn outcome
    rw [← counted] at time
    have drains : c.endDrain = c.halt.setFlag .linkState := by
      refine endDrain_stopping ?_
      rw [time]
      exact stopping
    have stays : (c.atTime { (s.atClose turn outcome).time with link := .running }).endDrain = c.atTime _ :=
      endDrain_of_ne _ nofun
    rw [drains, stays]
    refine ⟨rfl, rfl, rfl, rfl, rfl, rfl, rfl, rfl, rfl, rfl, ?_, rfl, ?_, rfl, rfl, rfl, rfl, ?_, rfl⟩
    · rw [flag_setFlag]
      simp
    · show c.time.superframe = _
      rw [time]
    · show c.time.pendingTiming.getD c.time.timing = _
      rw [time]

end Sys2Proof.Machine
end


section
/-! PROOFS. The acknowledgement of an UPDATE, entry by entry (R83 to R86): O47. -/

namespace Sys2Proof.Machine

/-! ## What an item leaves of the entry that it names -/

/-- What the acknowledgement of an item leaves of the entry of its field id, if anything (R83 to R85). -/
def FieldEntry.afterItem (e : FieldEntry) (refused : Bool) : Item → Option FieldEntry
  | .set _ version => some (e.acknowledge version refused)
  | .remove _ => if e.removing then none else some { e with confirmed := none }

/-- An acknowledged entry keeps its field id and its cell. -/
theorem FieldEntry.afterItem_keeps {e f : FieldEntry} {refused : Bool} {item : Item}
    (left : e.afterItem refused item = some f) : f.id = e.id ∧ f.cell = e.cell := by
  cases item with
  | set id version =>
    obtain rfl := Option.some.inj left
    cases refused <;> exact ⟨rfl, rfl⟩
  | remove id =>
    simp only [FieldEntry.afterItem] at left
    split at left
    · exact absurd left nofun
    · obtain rfl := Option.some.inj left
      exact ⟨rfl, rfl⟩

/-- What becomes of an entry from one state to the other: it stands changed, over the same cell, or it is gone and its
cell is free. -/
def Becomes (h : Handle) (s t : State) (e : FieldEntry) : Option FieldEntry → Prop
  | some f => f ∈ (t.record h).fields ∧ t.cellOf e = s.cellOf e
  | none => (∀ f ∈ (t.record h).fields, f.id ≠ e.id) ∧ t.cellOf e = none

/-- From one state to the other no field id enters the list, no cell is taken and REFUSED stays. -/
structure Thins (h : Handle) (s t : State) : Prop where
  ids : ((t.record h).fields.map FieldEntry.id).Sublist ((s.record h).fields.map FieldEntry.id)
  cells : ∀ e, s.cellOf e = none → t.cellOf e = none
  refused : s.flag .refused = true → t.flag .refused = true

section
variable {h : Handle} {s t u : State} {e : FieldEntry}

theorem Thins.rfl : Thins h s s := ⟨.refl _, fun _ => id, id⟩

theorem Thins.trans (a : Thins h s t) (b : Thins h t u) : Thins h s u :=
  ⟨b.ids.trans a.ids, fun e => b.cells e ∘ a.cells e, b.refused ∘ a.refused⟩

theorem Thins.length_le (a : Thins h s t) : (t.record h).fields.length ≤ (s.record h).fields.length := by
  simpa only [List.length_map] using a.ids.length_le

theorem Thins.absent (a : Thins h s t) {id : FieldId} (none : ∀ f ∈ (s.record h).fields, f.id ≠ id) :
    ∀ f ∈ (t.record h).fields, f.id ≠ id := by
  intro f hf
  obtain ⟨g, hg, same⟩ := List.mem_map.mp (a.ids.subset (List.mem_map_of_mem hf))
  exact same ▸ none g hg

/-- An entry that is gone stays gone. -/
theorem Becomes.gone (first : Becomes h s t e none) (rest : Thins h t u) : Becomes h s u e none :=
  ⟨rest.absent first.1, rest.cells e first.2⟩

/-- An entry that stands changed, and what becomes of it then. -/
theorem Becomes.andThen {f : FieldEntry} {o : Option FieldEntry} (first : Becomes h s t e (some f))
    (same : f.id = e.id ∧ f.cell = e.cell) (rest : Becomes h t u f o) : Becomes h s u e o := by
  obtain ⟨id, cell⟩ := same
  cases o <;> simp only [Becomes, cellOf_congr _ cell, id] at first rest ⊢
  · exact rest
  · exact ⟨rest.1, rest.2.trans first.2⟩

/-- Where the field list and the cells are those of other states, so is what becomes of an entry. -/
theorem Becomes.congr {s' t' : State} {o : Option FieldEntry} (b : Becomes h s t e o) (cells : s.cells = s'.cells)
    (fields : (t'.record h).fields = (t.record h).fields) (cells' : t'.cells = t.cells) : Becomes h s' t' e o := by
  cases o <;> simpa only [Becomes, State.cellOf, fields, cells, cells'] using b

/-! ## The change of one entry, and the removal of one -/

theorem fields_modifyEntry (s : State) (h : Handle) (id : FieldId) (change : FieldEntry → FieldEntry) :
    ((s.modifyRecord h (·.modifyEntry id change)).record h).fields =
      (s.record h).fields.map fun e => if e.id = id then change e else e := by
  rw [State.modifyRecord, record_setRecord_self]
  rfl

theorem thins_modifyEntry (id : FieldId) (change : FieldEntry → FieldEntry) (same : ∀ e, (change e).id = e.id) :
    Thins h s (s.modifyRecord h (·.modifyEntry id change)) := by
  have ids : (FieldEntry.id ∘ fun e => if e.id = id then change e else e) = FieldEntry.id := by
    funext e
    simp only [Function.comp]
    split
    · exact same e
    · rfl
  refine ⟨?_, fun _ free => free, fun set => set⟩
  rw [fields_modifyEntry, List.map_map, ids]

theorem becomes_modifyEntry (here : e ∈ (s.record h).fields) (id : FieldId) (change : FieldEntry → FieldEntry) :
    Becomes h s (s.modifyRecord h (·.modifyEntry id change)) e (some (if e.id = id then change e else e)) :=
  ⟨fields_modifyEntry s h id change ▸ List.mem_map_of_mem here, rfl⟩

theorem fields_dropField (s : State) (h : Handle) (d : FieldEntry) :
    ((s.dropField h d).record h).fields = (s.record h).fields.filter (·.id ≠ d.id) := by
  rw [State.dropField, State.modifyRecord, record_setRecord_self, record_freeCell]

theorem cellOf_dropField (d : FieldEntry) :
    (s.dropField h d).cellOf e = if e.cell = d.cell then none else s.cellOf e :=
  cells_freeCell s d.cell e.cell

theorem thins_dropField (d : FieldEntry) : Thins h s (s.dropField h d) := by
  refine ⟨?_, fun e free => ?_, fun set => set⟩
  · rw [fields_dropField]
    exact List.filter_sublist.map _
  · rw [cellOf_dropField, free, ite_self]

/-- A field list holds one entry for a field id (R16). -/
theorem FieldInvariant.entry_unique (i : FieldInvariant s) {d : FieldEntry} (here : e ∈ (s.record h).fields)
    (there : d ∈ (s.record h).fields) (same : e.id = d.id) : e = d :=
  List.inj_on_of_nodup_map ((i.order h).imp fun less => ne_of_lt less) here there same

theorem becomes_dropField (i : FieldsInOrder s) (here : e ∈ (s.record h).fields) {d : FieldEntry}
    (dropped : d ∈ (s.record h).fields) :
    Becomes h s (s.dropField h d) e (if e.id = d.id then none else some e) := by
  by_cases same : e.id = d.id
  · rw [if_pos same, Becomes, fields_dropField, cellOf_dropField]
    refine ⟨fun f hf => ?_, if_pos (congrArg _ (i.fields.entry_unique here dropped same))⟩
    rw [same]
    simpa using (List.mem_filter.mp hf).2
  · rw [if_neg same, Becomes, fields_dropField, cellOf_dropField]
    refine ⟨List.mem_filter.mpr ⟨here, by simpa using same⟩, if_neg fun cell => same ?_⟩
    exact congrArg _ (i.cells.apart h h e here d dropped cell).2

/-! ## One item of an acknowledged UPDATE (R83 to R85) -/

theorem acknowledgeItem_gone {id : FieldId} (refused : Bool) (absent : (s.record h).entry? id = none) :
    s.acknowledgeItem h (.remove id) refused = s := by
  simp only [State.acknowledgeItem, absent]

theorem acknowledgeItem_removing {id : FieldId} {d : FieldEntry} (refused : Bool)
    (found : (s.record h).entry? id = some d) (removing : d.removing = true) :
    s.acknowledgeItem h (.remove id) refused = s.dropField h d := by
  simp only [State.acknowledgeItem, found, removing, if_true]

theorem acknowledgeItem_revived {id : FieldId} {d : FieldEntry} (refused : Bool)
    (found : (s.record h).entry? id = some d) (revived : d.removing = false) :
    s.acknowledgeItem h (.remove id) refused =
      s.modifyRecord h (·.modifyEntry id fun e => { e with confirmed := none }) := by
  simp only [State.acknowledgeItem, found, revived, Bool.false_eq_true, if_false]

theorem entry?_found {r : Record} {id : FieldId} {d : FieldEntry} (found : r.entry? id = some d) :
    d ∈ r.fields ∧ d.id = id :=
  ⟨List.mem_of_find?_eq_some found, by simpa using List.find?_some found⟩

theorem entry?_absent {r : Record} {id : FieldId} (absent : r.entry? id = none) : ∀ f ∈ r.fields, f.id ≠ id :=
  fun f hf => by simpa using List.find?_eq_none.mp absent f hf

theorem thins_acknowledgeItem (item : Item) (refused : Bool) : Thins h s (s.acknowledgeItem h item refused) := by
  cases item with
  | set id version =>
    have thins : Thins h s (s.modifyRecord h (·.modifyEntry id (·.acknowledge version refused))) :=
      thins_modifyEntry id _ fun e => (FieldEntry.afterItem_keeps (item := .set id version) rfl).1
    rw [acknowledgeItem_set]
    split
    · refine ⟨thins.ids, thins.cells, fun _ => ?_⟩
      rw [flag_setFlag]
      simp
    · exact thins
  | remove id =>
    cases found : (s.record h).entry? id with
    | none => exact (acknowledgeItem_gone refused found).symm ▸ .rfl
    | some d =>
      cases removing : d.removing with
      | true => exact (acknowledgeItem_removing refused found removing).symm ▸ thins_dropField d
      | false => exact (acknowledgeItem_revived refused found removing).symm ▸ thins_modifyEntry id _ fun _ => rfl

/-- A refused set item sets REFUSED (R84). -/
theorem refused_acknowledgeItem (id : FieldId) (version : BitVec 8) :
    (s.acknowledgeItem h (.set id version) true).flag .refused = true := by
  rw [acknowledgeItem_set, if_pos rfl, flag_setFlag]
  simp

/-- An item acts on the entry that it names, and on no other. -/
theorem becomes_acknowledgeItem (i : FieldsInOrder s) (here : e ∈ (s.record h).fields) (item : Item) (refused : Bool) :
    Becomes h s (s.acknowledgeItem h item refused) e
      (if e.id = item.field then e.afterItem refused item else some e) := by
  cases item with
  | set id version =>
    have acknowledged := becomes_modifyEntry here id (·.acknowledge version refused)
    rw [apply_ite some] at acknowledged
    rw [acknowledgeItem_set]
    split
    · exact acknowledged.congr rfl rfl rfl
    · exact acknowledged
  | remove id =>
    cases found : (s.record h).entry? id with
    | none =>
      rw [acknowledgeItem_gone refused found, Item.field, if_neg (entry?_absent found e here)]
      exact ⟨here, rfl⟩
    | some d =>
      obtain ⟨dropped, rfl⟩ := entry?_found found
      have fate : (if e.id = d.id then e.afterItem refused (.remove d.id) else some e) =
          if e.id = d.id then (if d.removing then none else some { e with confirmed := none }) else some e := by
        split
        case isTrue same =>
          rw [← i.fields.entry_unique here dropped same]
          rfl
        case isFalse => rfl
      rw [Item.field, fate]
      cases removing : d.removing with
      | true =>
        rw [acknowledgeItem_removing refused found removing]
        exact becomes_dropField i here dropped
      | false =>
        rw [acknowledgeItem_revived refused found removing]
        have revived := becomes_modifyEntry here d.id fun e => { e with confirmed := none }
        rw [apply_ite some] at revived
        exact revived

/-! ## The items of an acknowledged UPDATE (R86) -/

theorem thins_acknowledgeFrom (refusals : BitVec 6) (items : List Item) : ∀ (i : Nat) (s : State),
    Thins h s (s.acknowledgeFrom h refusals i items) := by
  induction items with
  | nil => exact fun _ _ => .rfl
  | cons item items ih => exact fun i s => (thins_acknowledgeItem item _).trans (ih (i + 1) _)

/-- A refusal bit for a set item sets REFUSED (R84, R86). -/
theorem refused_acknowledgeFrom (refusals : BitVec 6) {id : FieldId} {version : BitVec 8} (items : List Item) :
    ∀ (i n : Nat) (s : State), items[n]? = some (.set id version) → refusals.getLsbD (i + n) = true →
      (s.acknowledgeFrom h refusals i items).flag .refused = true := by
  induction items with
  | nil => exact fun _ _ _ named => absurd named nofun
  | cons item items ih =>
    intro i n s named bit
    rw [State.acknowledgeFrom]
    cases n with
    | zero =>
      obtain rfl : item = .set id version := by simpa using named
      have bit : refusals.getLsbD i = true := bit
      rw [bit]
      exact (thins_acknowledgeFrom refusals items (i + 1) _).refused (refused_acknowledgeItem id version)
    | succ n => exact ih (i + 1) n _ (by simpa using named) (by rw [← bit]; congr 1; omega)

/-- An entry that no item names is as before. -/
theorem becomes_acknowledgeFrom_unnamed (refusals : BitVec 6) (items : List Item) : ∀ (i : Nat) (s : State),
    FieldsInOrder s → e ∈ (s.record h).fields → (∀ item ∈ items, item.field ≠ e.id) →
      Becomes h s (s.acknowledgeFrom h refusals i items) e (some e) := by
  induction items with
  | nil => exact fun _ _ _ here _ => ⟨here, rfl⟩
  | cons item items ih =>
    intro i s order here unnamed
    have first := becomes_acknowledgeItem order here item (refusals.getLsbD i)
    rw [if_neg (unnamed item List.mem_cons_self).symm] at first
    exact first.andThen ⟨rfl, rfl⟩ (ih (i + 1) _ (order.acknowledgeItem h item _) first.1
      fun later mem => unnamed later (List.mem_cons_of_mem _ mem))

/-- The one item that names an entry decides what becomes of it. -/
theorem becomes_acknowledgeFrom (refusals : BitVec 6) {item : Item} (names : item.field = e.id) (items : List Item) :
    ∀ (i n : Nat) (s : State), FieldsInOrder s → e ∈ (s.record h).fields → (items.map Item.field).Nodup →
      items[n]? = some item →
      Becomes h s (s.acknowledgeFrom h refusals i items) e (e.afterItem (refusals.getLsbD (i + n)) item) := by
  induction items with
  | nil => exact fun _ _ _ _ _ _ named => absurd named nofun
  | cons head items ih =>
    intro i n s order here distinct named
    obtain ⟨apart, distinct⟩ := List.nodup_cons.mp distinct
    have first := becomes_acknowledgeItem order here head (refusals.getLsbD i)
    have orderAfter := order.acknowledgeItem h head (refusals.getLsbD i)
    rw [State.acknowledgeFrom]
    cases n with
    | zero =>
      obtain rfl : head = item := by simpa using named
      rw [if_pos names.symm] at first
      rw [Nat.add_zero]
      cases left : e.afterItem (refusals.getLsbD i) head with
      | none => exact (left ▸ first).gone (thins_acknowledgeFrom refusals items (i + 1) _)
      | some f =>
        rw [left] at first
        have keeps := FieldEntry.afterItem_keeps left
        refine first.andThen keeps (becomes_acknowledgeFrom_unnamed refusals items (i + 1) _ orderAfter first.1 ?_)
        exact fun later mem same => apart (List.mem_map.mpr ⟨later, mem, same.trans (keeps.1.trans names.symm)⟩)
    | succ n =>
      have named : items[n]? = some item := by simpa using named
      have later : e.id ≠ head.field := fun same =>
        apart (List.mem_map.mpr ⟨item, List.mem_of_getElem? named, names.trans same⟩)
      rw [if_neg later] at first
      have rest := ih (i + 1) n _ orderAfter first.1 distinct named
      rw [Nat.add_right_comm, Nat.add_assoc] at rest
      exact first.andThen ⟨rfl, rfl⟩ rest

end

/-! ## The close of the turn -/

theorem fieldsInOrder_heardReply {s : State} {turn : LabelTurn} (ack : Ack) (i : FieldsInOrder s) :
    FieldsInOrder (s.heardReply turn ack) := by
  have frame := heardReply_frame (s := s) (turn := turn) ack
  have acts := actsOn_heardReply (s := s) (turn := turn) ack
  have own := record_heardReply (s := s) (turn := turn) ack
  have record (k : Handle) : ((s.heardReply turn ack).record k).fields = (s.record k).fields ∧
      ((s.heardReply turn ack).record k).state = (s.record k).state := by
    by_cases other : k = turn.handle
    · rw [other, own]
      exact ⟨rfl, rfl⟩
    · rw [acts.others k other]
      exact ⟨rfl, rfl⟩
  exact i.congr (fun k => (record k).1) (fun k free => (record k).2 ▸ free) (by rw [frame])

section
variable {s : State} {turn : LabelTurn} {ack : Ack}

/-- The state after the report and the items of an acknowledged UPDATE (R86). -/
def State.afterItems (s : State) (turn : LabelTurn) (ack : Ack) (items : List Item) : State :=
  (s.heardReply turn ack).acknowledgeFrom turn.handle ack.refusals 0 items

/-- The GOOD close of an UPDATE with an item leaves the field list, the cells and REFUSED as the items do, and inserts
the handle (R22, R86). -/
theorem exec_closes_update {frame : Uplink} {corrected : Nat} {items : List Item} (out : s.inReset = false)
    (running : s.time.link = .running) (label : s.context = some (.label turn)) (listening : turn.phase = .listening)
    (own : turn.kind = .label) (work : turn.work = .update items) (carries : items ≠ [])
    (good : classifyUplink frame = .ack (linkAddress turn.handle) turn.tag ack corrected)
    (linked : (s.record turn.handle).linked) (same : (s.record turn.handle).generation = turn.generation) :
    ∃ t, exec (.uplinkFrame frame) s = .next t ∧ (t.isChanged turn.handle = true ∧ t.flag .changed = true) ∧
      ((t.record turn.handle).fields = ((s.afterItems turn ack items).record turn.handle).fields ∧
        t.cells = (s.afterItems turn ack items).cells ∧ t.flag .refused = (s.afterItems turn ack items).flag .refused) ∧
      t.seats = s.seats ∧ ∀ k, k ≠ turn.handle → t.record k = s.record k := by
  have news : (!items.isEmpty) = true := by simpa using carries
  have confirms := confirms_update (s := s.heardReply turn ack) (h := turn.handle) items ack.refusals
  have effects : (s.heardReply turn ack).goodEffects turn ack =
      (s.heardReply turn ack).acknowledgeUpdate turn.handle items ack.refusals := by
    rw [goodEffects_label ack (linked_heardReply ack linked) own, work]
    rfl
  have marked : (s.heardReply turn ack).acknowledgeUpdate turn.handle items ack.refusals =
      (s.afterItems turn ack items).markChanged turn.handle := by
    rw [State.acknowledgeUpdate, news]
    rfl
  obtain ⟨t, moved, run, closed⟩ := exec_closes_linked out running label listening good linked same (effects ▸ confirms)
  rw [effects] at closed
  refine ⟨t, run, ⟨?_, ?_⟩, ⟨?_, ?_, ?_⟩, ?_, fun k other => (closed.others k other).1⟩
  · rw [closed.isChanged, confirms.isChanged, news, Bool.true_or, Bool.or_true]
  · rw [closed.changedFlag, confirms.changedFlag, news, Bool.true_or, Bool.or_true]
  · rw [closed.repliedTo.record, marked, record_markChanged]
  · rw [closed.cells, marked]
    rfl
  · rw [closed.flags _ (by decide) (by decide), marked, flag_markChanged]
    simp
  · obtain ⟨frame, _⟩ := acknowledgeFrom_parts (h := turn.handle) ack.refusals items 0 (s.heardReply turn ack)
    rw [closed.seats, marked]
    show ((s.heardReply turn ack).acknowledgeFrom turn.handle ack.refusals 0 items).seats = s.seats
    rw [frame, heardReply_frame]

end

/-- Settles O47: the items act on the record that the report leaves, entry by entry. -/
theorem updateAcknowledgement : Obligations.UpdateAcknowledgement := by
  intro s turn frame ack corrected items out running label listening own work carries _ good fields cells r idOf linked
    same distinct
  have names : idOf = Item.field := funext fun item => by cases item <;> rfl
  clear_value idOf
  subst names
  obtain ⟨t, run, ⟨isChanged, changedFlag⟩, ⟨fieldsAre, cellsAre, refusedIs⟩, seats, others⟩ :=
    exec_closes_update out running label listening own work carries good linked same
  have order := fieldsInOrder_heardReply (turn := turn) ack ⟨fields, cells⟩
  have heardCells : (s.heardReply turn ack).cells = s.cells := by rw [heardReply_frame]
  have heardFields : ((s.heardReply turn ack).record turn.handle).fields = r.fields := by
    rw [record_heardReply]
    rfl
  have becomes {e : FieldEntry} {o : Option FieldEntry}
      (b : Becomes turn.handle (s.heardReply turn ack) (s.afterItems turn ack items) e o) :
      Becomes turn.handle s t e o :=
    b.congr heardCells fieldsAre cellsAre
  refine ⟨t, run, isChanged, changedFlag, fun e he => ?_, ?_, others, seats⟩
  · have here : e ∈ ((s.heardReply turn ack).record turn.handle).fields := heardFields ▸ he
    have named {n : Nat} {item : Item} (own : item.field = e.id) (place : items[n]? = some item) :
        Becomes turn.handle s t e (e.afterItem (ack.refusals.getLsbD n) item) := by
      have fate := becomes_acknowledgeFrom ack.refusals own items 0 n _ order here distinct place
      rw [Nat.zero_add] at fate
      exact becomes fate
    have removed (removal : .remove e.id ∈ items) :
        Becomes turn.handle s t e (if e.removing then none else some { e with confirmed := none }) := by
      obtain ⟨n, place⟩ := List.mem_iff_getElem?.mp removal
      exact named rfl place
    refine ⟨fun unnamed => ?_, fun n v place clear => ?_, fun n v place bit => ?_, fun removal removing => ?_,
      fun removal revived => ?_⟩
    · exact becomes (becomes_acknowledgeFrom_unnamed ack.refusals items 0 _ order here unnamed)
    · have fate := named rfl place
      rw [clear] at fate
      exact fate
    · have fate := named rfl place
      rw [bit] at fate
      refine ⟨fate.1, fate.2, refusedIs.trans ?_⟩
      exact refused_acknowledgeFrom ack.refusals items 0 n _ place ((Nat.zero_add n).symm ▸ bit)
    · have fate := removed removal
      rw [if_pos removing] at fate
      exact fate
    · have fate := removed removal
      rw [if_neg (Bool.eq_false_iff.mp revived)] at fate
      exact fate
  · rw [fieldsAre, ← heardFields]
    exact (thins_acknowledgeFrom ack.refusals items 0 _).length_le

end Sys2Proof.Machine
end
